-- ==== Sys2Proof/Word.lean ====
section
/-! DEFINITION. The word types of the uzlib CORE engine and the sparse store that every memory of it uses
(00_scope.md R10, R12; 20_memory.md R62). -/

namespace Sys2Proof

/-- A 32-bit register, command word or checksum (00_scope.md R10). -/
abbrev Word := BitVec 32

/-- A byte of system memory, of the ring or of a port (20_memory.md R62). -/
abbrev Byte := BitVec 8

/-- A system-memory address, 32 bits, computed modulo 2^32 (00_scope.md R10, `ADDR_W`). -/
abbrev Addr := BitVec 32

/-- A sparse store: pairs of an index and the value written there, indexes strictly rising. An index
that is not listed has never been written and has no value (93_implementation_defined.md U1). System memory
is one of these with bytes, so its cells are `Host.Cell`. -/
abbrev Cells (α : Type) := List (Nat × α)

end Sys2Proof
end

