-- ==== Sys2Proof/Config.lean ====
section
/-! DEFINITION. The implementation parameters the spec fixes (00_scope.md section 4). No parameter is left open
here: the two open ones, `MMIO_BASE` and `BACKED`, are fields of the state's `Platform`. -/

namespace Sys2Proof.Config

/-- The read-only identity word (10_state.md R27). -/
def idValue : Word := 0x555A0007#32

/-- `RING_MAX`, the size of the ring RAM in bytes (00_scope.md R6). -/
def ringMax : Nat := 32768

/-- `WINDOW_MAX`, the largest valid back-reference distance (00_scope.md R7). -/
def windowMax : Nat := 32768

/-- `LEN_SIZE`, the number of entries of the code-length memory (00_scope.md R8). -/
def lenSize : Nat := 320

/-- `MAXBITS`, the longest Huffman code (00_scope.md R9). -/
def maxBits : Nat := 15

/-- The capacities of the tree slots `LT`, `DT` and `CT` (00_scope.md R9). -/
def ltCapacity : Nat := 288

def dtCapacity : Nat := 32

def ctCapacity : Nat := 19

end Sys2Proof.Config
end

