-- ==== Sys2Proof/Syntax.lean ====
section
/-! DEFINITION. The commands of the core, one constructor per row of spec/opcode_table.json
(30_encoding.md R92, R94). -/

namespace Sys2Proof

/-- A command with its operand fields at their encoded widths (30_encoding.md R92). Every operand is an
unsigned immediate. An operand value of R95 that is illegal can be written down here and is
refused by `Instr.wf`. -/
inductive Instr where
  /-- 44_inflate.md R220. -/
  | nop
  /-- 44_inflate.md R222. -/
  | init
  /-- 44_inflate.md R224. -/
  | step (cap : BitVec 26)
  /-- 40_bitreader.md R127. -/
  | getbits (n : BitVec 6)
  /-- 40_bitreader.md R128. -/
  | getbyte
  /-- 40_bitreader.md R129. -/
  | align
  /-- 41_checksum.md R144. -/
  | ckinit (kind : BitVec 2)
  /-- 41_checksum.md R145. -/
  | ckset (kind : BitVec 2)
  /-- 41_checksum.md R146. -/
  | ckbyte (b : Byte)
  /-- 42_huffman.md R175. -/
  | lenw (idx : BitVec 9) (len : BitVec 4)
  /-- 42_huffman.md R176. -/
  | lenr (idx : BitVec 9)
  /-- 42_huffman.md R177. -/
  | build (slot : BitVec 2) (base : BitVec 9) (num : BitVec 9)
  /-- 42_huffman.md R178. -/
  | fixed
  /-- 42_huffman.md R179. -/
  | decode (slot : BitVec 2)
  /-- 43_window.md R200. -/
  | put (b : Byte)
  /-- 43_window.md R201. -/
  | get (dist : BitVec 16)
  /-- 43_window.md R202. -/
  | copy (len : BitVec 9) (dist : BitVec 16)
  /-- 43_window.md R203. -/
  | preload (b : Byte)
  deriving DecidableEq, Repr

end Sys2Proof
end

