-- ==== Sys2Proof/WellFormed.lean ====
section
/-! DEFINITION. The operand range checks of 30_encoding.md R95. -/

namespace Sys2Proof

/-- The number of symbols a slot number of `BUILD` can hold, 0 for the illegal slot 3 (00_scope.md R9). -/
def slotCapacity (slot : BitVec 2) : Nat :=
  match slot.toNat with
  | 0 => Config.ltCapacity
  | 1 => Config.dtCapacity
  | 2 => Config.ctCapacity
  | _ => 0

/-- Whether the operand values are legal (30_encoding.md R95). `GET` and `COPY` distances are always legal
here: a bad distance raises `INVALID_DISTANCE`, not `ILLEGAL_CMD`. -/
def Instr.wf : Instr → Bool
  | .nop => true
  | .init => true
  | .step _ => true
  | .getbits n => decide (n.toNat ≤ 32)
  | .getbyte => true
  | .align => true
  | .ckinit kind => decide (kind.toNat ≠ 3)
  | .ckset kind => decide (kind.toNat ≠ 3)
  | .ckbyte _ => true
  | .lenw idx _ => decide (idx.toNat < Config.lenSize)
  | .lenr idx => decide (idx.toNat < Config.lenSize)
  | .build slot base num =>
      decide (slot.toNat ≠ 3) && decide (num.toNat ≠ 0) && decide (num.toNat ≤ slotCapacity slot)
        && decide (base.toNat + num.toNat ≤ Config.lenSize)
  | .fixed => true
  | .decode slot => decide (slot.toNat ≠ 3)
  | .put _ => true
  | .get _ => true
  | .copy len _ => decide (len.toNat ≠ 0) && decide (len.toNat ≤ 258)
  | .preload _ => true

end Sys2Proof
end

