-- ==== Sys2Proof/Decode.lean ====
section
/-! DEFINITION. Decoding a command word, total on all 2^32 words, and the encoder written from the same table
(30_encoding.md R90 to R96). -/

namespace Sys2Proof

/-- Why a word is illegal, in the order of precedence of 60_exceptions.md R275. Each raises `ILLEGAL_CMD`. -/
inductive Reject where
  | reservedOpcode
  | mustBeZero
  | illegalOperand
  deriving DecidableEq, Repr

/-- `OPC = w[31:26]` (30_encoding.md R91). -/
def opcodeOf (w : Word) : BitVec 6 := w.extractLsb' 26 6

/-- The row of the opcode table a word selects (30_encoding.md R94): how many low bits its format gives to
operands, every bit from there up to bit 25 being must-be-zero, and the command with its fields taken from
the bits R92 lists. `none` is a reserved opcode (R95). -/
def opcodeRow (w : Word) : Option (Nat × Instr) :=
  match (opcodeOf w).toNat with
  | 0x00 => some (0, .nop)
  | 0x01 => some (0, .init)
  | 0x02 => some (26, .step (w.extractLsb' 0 26))
  | 0x08 => some (6, .getbits (w.extractLsb' 0 6))
  | 0x09 => some (0, .getbyte)
  | 0x0A => some (0, .align)
  | 0x10 => some (2, .ckinit (w.extractLsb' 0 2))
  | 0x11 => some (2, .ckset (w.extractLsb' 0 2))
  | 0x12 => some (8, .ckbyte (w.extractLsb' 0 8))
  | 0x18 => some (13, .lenw (w.extractLsb' 0 9) (w.extractLsb' 9 4))
  | 0x19 => some (9, .lenr (w.extractLsb' 0 9))
  | 0x1A => some (20, .build (w.extractLsb' 18 2) (w.extractLsb' 9 9) (w.extractLsb' 0 9))
  | 0x1B => some (0, .fixed)
  | 0x1C => some (2, .decode (w.extractLsb' 0 2))
  | 0x20 => some (8, .put (w.extractLsb' 0 8))
  | 0x21 => some (16, .get (w.extractLsb' 0 16))
  | 0x22 => some (25, .copy (w.extractLsb' 16 9) (w.extractLsb' 0 16))
  | 0x23 => some (8, .preload (w.extractLsb' 0 8))
  | _ => none

/-- The must-be-zero bits of a format with `k` operand bits: `w[25:k]` (30_encoding.md R92, R93). -/
def mustBeZeroBits (k : Nat) (w : Word) : BitVec (26 - k) := w.extractLsb' k (26 - k)

/-- The decoding procedure of 30_encoding.md R96: opcode, must-be-zero mask, operand ranges. -/
def decode (w : Word) : Except Reject Instr :=
  match opcodeRow w with
  | none => .error .reservedOpcode
  | some (k, i) =>
      if mustBeZeroBits k w = 0 then
        if i.wf then .ok i else .error .illegalOperand
      else .error .mustBeZero

/-- The opcode of a command (30_encoding.md R94). -/
def Instr.opcode : Instr → BitVec 6
  | .nop => 0x00#6
  | .init => 0x01#6
  | .step _ => 0x02#6
  | .getbits _ => 0x08#6
  | .getbyte => 0x09#6
  | .align => 0x0A#6
  | .ckinit _ => 0x10#6
  | .ckset _ => 0x11#6
  | .ckbyte _ => 0x12#6
  | .lenw _ _ => 0x18#6
  | .lenr _ => 0x19#6
  | .build _ _ _ => 0x1A#6
  | .fixed => 0x1B#6
  | .decode _ => 0x1C#6
  | .put _ => 0x20#6
  | .get _ => 0x21#6
  | .copy _ _ => 0x22#6
  | .preload _ => 0x23#6

/-- The operand fields `w[25:0]` of a command (30_encoding.md R92), most significant field first. -/
def Instr.operandBits : Instr → BitVec 26
  | .nop => 0#26
  | .init => 0#26
  | .step cap => cap
  | .getbits n => 0#20 ++ n
  | .getbyte => 0#26
  | .align => 0#26
  | .ckinit kind => 0#24 ++ kind
  | .ckset kind => 0#24 ++ kind
  | .ckbyte b => 0#18 ++ b
  | .lenw idx len => 0#13 ++ len ++ idx
  | .lenr idx => 0#17 ++ idx
  | .build slot base num => 0#6 ++ slot ++ base ++ num
  | .fixed => 0#26
  | .decode slot => 0#24 ++ slot
  | .put b => 0#18 ++ b
  | .get dist => 0#10 ++ dist
  | .copy len dist => 0#1 ++ len ++ dist
  | .preload b => 0#18 ++ b

/-- The word of a command, `(OPC << 26) | operand fields` (30_encoding.md R94). -/
def encode (i : Instr) : Word := i.opcode ++ i.operandBits

/-- The instruction this decoder reads from a word of `nbits` bits, bit 0 least significant. Every command is one
32-bit word (30_encoding.md R90), so no more than 32 bits count. -/
def decodeTableWord (nbits w : Nat) : Option Instr :=
  match decode (BitVec.ofNat 32 (w % 2 ^ nbits)) with
  | .ok i => some i
  | .error _ => none

end Sys2Proof
end

