-- ==== Sys2Proof/Machine/State.lean ====
section
/-! DEFINITION. The state of the machine: every element of 10_state.md, system memory, the platform parameters,
the environment's side of the ports and of the register bus, and the command in progress. -/

namespace Sys2Proof.Machine

/-- System memory: `Host.Cell`s with strictly rising addresses (20_memory.md R62). An unlisted byte has no value
(DESIGN CHOICE, safe: log entry 7). -/
abbrev Memory := Cells Byte

/-- `CK_KIND` and `CTRL.CKKIND`; the code 3 is never held (10_state.md R22, R34). -/
inductive CkKind where
  | none
  | adler
  | crc
  deriving DecidableEq, Repr

/-- `CTRL.TRAILER`; the code 3 is never held (10_state.md R22). -/
inductive Trailer where
  | none
  | zlib
  | gzip
  deriving DecidableEq, Repr

/-- The stored fields of `CTRL` and of its latched copy (10_state.md R22, R38). -/
structure Ctrl where
  ckKind : CkKind
  dstRes : Bool
  dstPush : Bool
  rdestEn : Bool
  srcPull : Bool
  trailer : Trailer
  deriving DecidableEq, Repr

/-- `PSTATE` (10_state.md R31). -/
inductive PState where
  | idle
  | hdr
  | stored
  | huff
  | copy
  | trailer
  | done
  | dataError
  | checksumError
  | sourceExhausted
  deriving DecidableEq, Repr

/-- The error codes of `ERR` and `STREAM_ERR` (60_exceptions.md R270); `none` is code 0. -/
inductive Err where
  | none
  | badBlockType
  | badStoredLen
  | badCounts
  | treeOversub
  | invalidCode
  | badRepeat
  | badSymbol
  | invalidDistance
  | checksum
  | srcExhausted
  | illegalCmd
  | destFull
  | treeNotBuilt
  | noStream
  deriving DecidableEq, Repr

/-- One of the three tree slots (00_scope.md R9). -/
inductive Slot where
  | lt
  | dt
  | ct
  deriving DecidableEq, Repr

/-- The contents of a tree slot (10_state.md R35): `VALID`, `COUNT[0..15]` and `TRANS`, the last two unwritten after
reset (R45). -/
structure Tree where
  valid : Bool
  count : Cells (BitVec 9)
  trans : Cells (BitVec 9)
  deriving DecidableEq, Repr

/-- The configuration latched by `INIT` (10_state.md R38). -/
structure Latch where
  ctrl : Ctrl
  ringCap : BitVec 16
  srcBase : Word
  srcLen : Word
  dstBase : Word
  dstLen : Word
  deriving DecidableEq, Repr

/-- The host's answer to a `PullByte` (00_scope.md R14). -/
inductive PullAnswer where
  | byte (b : Byte)
  | eof
  deriving DecidableEq, Repr

/-- A completed port handshake (20_memory.md R66). -/
inductive PortEvent where
  | pull (a : PullAnswer)
  | push (b : Byte)
  | readDest (pos : Word) (b : Byte)
  deriving DecidableEq, Repr

/-- The environment's side of the three ports (20_memory.md R66; log entries 4 and 11): the answers the host stands ready to
give, and the handshakes completed so far, oldest first. -/
structure Ports where
  pullQ : List PullAnswer
  pullEnded : Bool
  pushReady : Nat
  readDestQ : List Byte
  log : List PortEvent
  deriving DecidableEq, Repr

/-- A range of backed system-memory addresses. -/
structure Region where
  base : Nat
  size : Nat
  deriving DecidableEq, Repr

/-- The two open parameters (92_eei_decisions.md D2, D7): the place of the register window and the backed addresses. -/
structure Platform where
  mmioBase : Addr
  backed : List Region
  deriving DecidableEq, Repr

/-- Everything a command reads or writes. -/
structure Engine where
  /-- `CTRL` (10_state.md R22). -/
  ctrl : Ctrl
  /-- `RING_CAP` (10_state.md R23). -/
  ringCapReg : BitVec 16
  /-- `SRC_BASE`, `SRC_LEN`, `DST_BASE`, `DST_LEN` (10_state.md R24). -/
  srcBase : Word
  srcLen : Word
  dstBase : Word
  dstLen : Word
  /-- `DATA` (10_state.md R25). -/
  data : Word
  /-- `RESULT` (10_state.md R29). -/
  result : Word
  /-- `ERR` (10_state.md R40). -/
  err : Err
  /-- `PSTATE` (10_state.md R31). -/
  pstate : PState
  /-- `STREAM_ERR` (10_state.md R39). -/
  streamErr : Err
  /-- `BFINAL` and `BTYPE` (10_state.md R32). -/
  bfinal : Bool
  btype : BitVec 2
  /-- `BITACC`, `BITCNT` and `SRC_POS` (10_state.md R33). -/
  bitacc : Word
  bitcnt : BitVec 5
  srcPos : Word
  /-- `CK_KIND` and `CK_STATE` (10_state.md R34). -/
  ckKind : CkKind
  ckState : Word
  /-- `LEN[0..319]` (10_state.md R35). -/
  len : Cells (BitVec 4)
  /-- `LT`, `DT` and `CT` (10_state.md R35). -/
  lt : Tree
  dt : Tree
  ct : Tree
  /-- `RING`, `RING_IDX`, `RING_FILL`, `DST_POS`, `OUT_COUNT` and `OUT_SAT` (10_state.md R36). -/
  ring : Cells Byte
  ringIdx : BitVec 16
  ringFill : BitVec 16
  dstPos : Word
  outCount : Word
  outSat : BitVec 16
  /-- `LZ_REM`, `LZ_DIST` and `SREM` (10_state.md R37). -/
  lzRem : BitVec 9
  lzDist : BitVec 16
  srem : BitVec 16
  /-- The latched configuration (10_state.md R38). -/
  latch : Latch
  /-- System memory (20_memory.md R62). -/
  mem : Memory
  /-- The platform parameters (92_eei_decisions.md). -/
  platform : Platform
  /-- The environment's side of the ports (20_memory.md R66). -/
  ports : Ports
  deriving DecidableEq, Repr

/-- What a command in progress waits for (60_exceptions.md R288). -/
inductive Waiting where
  /-- The host has not answered `PullByte`. -/
  | pull
  /-- The host has not accepted `PushByte(b)`. -/
  | push (b : Byte)
  /-- The host has not answered `ReadDest(pos)`. -/
  | readDest (pos : Word)
  /-- The platform does not back this address; the command never completes (20_memory.md R63). -/
  | unbacked (a : Addr)
  deriving DecidableEq, Repr

/-- The command in progress while `BUSY` = 1: the command, the engine as it was when the command was accepted,
and what the command waits for. Log entry 5 says how the command goes on from here. -/
structure Running where
  instr : Instr
  start : Engine
  req : Waiting
  deriving DecidableEq, Repr

/-- One action of the host (00_scope.md R11, R19). Register accesses name a platform address and carry byte lanes,
lane 0 at the lowest address (20_memory.md R61, R70). -/
inductive HostAction where
  /-- A register write of as many bytes as there are lanes. -/
  | write (addr : Addr) (lanes : List Byte)
  /-- A register read of so many bytes. -/
  | read (addr : Addr) (bytes : Nat)
  /-- The reset input (70_reset_and_hazards.md R300). -/
  | reset
  /-- A write of one byte of system memory by the host. -/
  | memWrite (addr : Addr) (b : Byte)
  /-- The host has one more answer to `PullByte` ready. -/
  | pullAnswer (a : PullAnswer)
  /-- The host is ready to accept one more pushed byte. -/
  | pushAccept
  /-- The host has one more answer to `ReadDest` ready. -/
  | readDestAnswer (b : Byte)
  /-- The host reads `STATUS` until `BUSY` = 0 (30_encoding.md R99, 70_reset_and_hazards.md R310; log entry 23). -/
  | wait
  deriving DecidableEq, Repr

/-- The whole machine. -/
structure State extends Engine where
  /-- `BUSY` and `DROP` (10_state.md R40). -/
  busy : Bool
  drop : Bool
  /-- The command in progress (log entry 5). -/
  running : Option Running
  /-- The host's pending actions, next first (log entry 1). -/
  hostq : List HostAction
  /-- The lanes the host's register reads have returned, oldest first. -/
  busReads : List (List Byte)
  deriving DecidableEq, Repr

/-- Why the model stops with a fault. -/
inductive Fault where
  /-- `LENR` or `BUILD` read a `LEN` entry never written since reset: the spec's own treatment is a model fault
  (93_implementation_defined.md U1). Safe. -/
  | unwrittenLen (idx : Nat)
  /-- A tree table entry never written was read. No rule does this from a state a run reaches (U1). Safe. -/
  | unwrittenTree (slot : Slot)
  /-- A ring byte never written was read. No rule does this from a state a run reaches (U1). Safe. -/
  | unwrittenRing (idx : Nat)
  /-- A backed system-memory byte without a value was read: the model's memory argument does not give it
  (log entry 7). Safe. -/
  | unwrittenMem (addr : Addr)
  /-- The loop bound of `STEP` was used up. The bound is larger than any run of the loop (log entry 13). Safe. -/
  | loopBound
  deriving DecidableEq, Repr

/-- Why the model gives a run no meaning. -/
inductive Refusal where
  /-- An instruction without a meaning. Raised by no arm. Safe. -/
  | notModelled (mnemonic : String)
  /-- `INIT` of a stream whose resident source and destination slices overlap (20_memory.md R64,
  93_implementation_defined.md U7). Safe. -/
  | overlappingSlices
  /-- The host wrote a byte of a stream's slice while a command runs (93_implementation_defined.md U6). Safe. -/
  | sliceWriteWhileBusy (addr : Addr)
  /-- The host answered `PullByte` with a byte after `EOF` (93_implementation_defined.md U5). Safe. -/
  | byteAfterEof
  deriving DecidableEq, Repr

/-- `CTRL` after reset (10_state.md R45). -/
def Ctrl.zero : Ctrl := ⟨.none, false, false, false, false, .none⟩

/-- A tree slot after reset (10_state.md R45). -/
def Tree.unbuilt : Tree := ⟨false, [], []⟩

/-- The latched configuration after reset (10_state.md R45). -/
def Latch.zero : Latch := ⟨Ctrl.zero, 0, 0, 0, 0, 0⟩

/-- No answer offered and no handshake made (log entry 16). -/
def Ports.quiet : Ports := ⟨[], false, 0, [], []⟩

/-- The platform right after reset: window at 0, every address backed (DESIGN CHOICE, unsafe: log entries 6, 14). -/
def Platform.initial : Platform := ⟨0, [⟨0, 2 ^ 32⟩]⟩

/-- The "after reset" column of 10_state.md R45, with nothing in system memory. -/
def Engine.reset : Engine :=
  { ctrl := Ctrl.zero, ringCapReg := 0
    srcBase := 0, srcLen := 0, dstBase := 0, dstLen := 0
    data := 0, result := 0, err := .none
    pstate := .idle, streamErr := .none, bfinal := false, btype := 0
    bitacc := 0, bitcnt := 0, srcPos := 0
    ckKind := .none, ckState := 0
    len := [], lt := Tree.unbuilt, dt := Tree.unbuilt, ct := Tree.unbuilt
    ring := [], ringIdx := 0, ringFill := 0
    dstPos := 0, outCount := 0, outSat := 0
    lzRem := 0, lzDist := 0, srem := 0
    latch := Latch.zero
    mem := [], platform := Platform.initial, ports := Ports.quiet }

/-- The machine right after power-on reset (10_state.md R45, 70_reset_and_hazards.md R300). -/
def State.reset : State :=
  { toEngine := Engine.reset, busy := false, drop := false, running := none, hostq := [], busReads := [] }

end Sys2Proof.Machine
end

