-- ==== Sys2Proof/Machine/Operands.lean ====
section
/-! DEFINITION. What operand fields stand for: tree slots, byte lanes of the register bus, slices of system memory
(00_scope.md R9; 20_memory.md R61, R62, R64, R70; 30_encoding.md R92). -/

namespace Sys2Proof.Machine

/-- The slot a slot number names (30_encoding.md R99); number 3 is illegal (R95) and never reaches a slot. -/
def Slot.ofCode (v : BitVec 2) : Slot :=
  match v.toNat with
  | 0 => .lt
  | 1 => .dt
  | _ => .ct

/-- The contents of a slot (42_huffman.md R160). -/
def Engine.tree (c : Engine) : Slot → Tree
  | .lt => c.lt
  | .dt => c.dt
  | .ct => c.ct

/-- Replace the contents of a slot; the other slots stay (42_huffman.md R166). -/
def Engine.setTree (c : Engine) : Slot → Tree → Engine
  | .lt, t => { c with lt := t }
  | .dt, t => { c with dt := t }
  | .ct, t => { c with ct := t }

/-- The byte lanes of a 32-bit value, lane 0 first (20_memory.md R70). -/
def lanesOf (w : Word) : List Byte :=
  [w.extractLsb' 0 8, w.extractLsb' 8 8, w.extractLsb' 16 8, w.extractLsb' 24 8]

/-- The 32-bit value on four lanes; no other width is a defined access (20_memory.md R61, R70). -/
def wordOfLanes : List Byte → Option Word
  | [b0, b1, b2, b3] => some (b3 ++ b2 ++ b1 ++ b0)
  | _ => none

/-- The offset of a platform address in the register window (20_memory.md R61). -/
def Platform.offset (p : Platform) (a : Addr) : Nat := (a - p.mmioBase).toNat

/-- Whether the platform backs an address (20_memory.md R63). -/
def Platform.backs (p : Platform) (a : Addr) : Bool :=
  p.backed.any fun r => decide (r.base ≤ a.toNat) && decide (a.toNat < r.base + r.size)

/-- Whether an address lies in the slice of `len` bytes from `base`, addresses modulo 2^32 (20_memory.md R62, R64). -/
def inSlice (base len a : Word) : Bool := decide ((a - base).toNat < len.toNat)

/-- Whether two slices share an address (20_memory.md R64). -/
def slicesOverlap (base₁ len₁ base₂ len₂ : Word) : Bool :=
  (inSlice base₁ len₁ base₂ && decide (len₂ ≠ 0)) || (inSlice base₂ len₂ base₁ && decide (len₁ ≠ 0))

/-- Whether the resident slices a configuration uses overlap: the source slice is used in resident source mode, the
destination slice with a resident destination (10_state.md R24, 20_memory.md R64). -/
def Latch.overlaps (l : Latch) : Bool :=
  !l.ctrl.srcPull && l.ctrl.dstRes && slicesOverlap l.srcBase l.srcLen l.dstBase l.dstLen

/-- Whether an address lies in a resident slice of the stream (20_memory.md R64). -/
def Latch.owns (l : Latch) (a : Addr) : Bool :=
  (!l.ctrl.srcPull && inSlice l.srcBase l.srcLen a) || (l.ctrl.dstRes && inSlice l.dstBase l.dstLen a)

end Sys2Proof.Machine
end

