-- ==== Sys2Proof/Machine/Ops.lean ====
section
/-! DEFINITION. The shared operations: sparse stores, system memory, the three ports, the bit reader's fetch, raising an
error, and running a command (00_scope.md R14; 20_memory.md R62, R63, R66; 40_bitreader.md R121; 60_exceptions.md
R271, R272). -/

namespace Sys2Proof

/-- The value written at an index, if any. -/
def Cells.read {α : Type} : Cells α → Nat → Option α
  | [], _ => none
  | (k, v) :: rest, a => if k = a then some v else Cells.read rest a

/-- Write a value at an index, keeping the indexes strictly rising. -/
def Cells.write {α : Type} : Cells α → Nat → α → Cells α
  | [], a, v => [(a, v)]
  | (k, w) :: rest, a, v =>
      if a < k then (a, v) :: (k, w) :: rest
      else if a = k then (a, v) :: rest
      else (k, w) :: Cells.write rest a v

/-- The canonical form: indexes strictly rising. -/
def Cells.wf {α : Type} : Cells α → Bool
  | [] => true
  | (k, _) :: rest => rest.all (fun p => decide (k < p.1)) && Cells.wf rest

namespace Machine

/-- The canonical form of system memory. -/
abbrev Memory.wf (m : Memory) : Bool := Cells.wf m

/-- How a command ends other than by returning. -/
inductive Stop where
  /-- `raise E` (60_exceptions.md R272). -/
  | raise (e : Err)
  /-- The command cannot go on now (60_exceptions.md R288). -/
  | wait (w : Waiting)
  | fault (f : Fault)
  | refuse (r : Refusal)
  deriving DecidableEq, Repr

/-- A piece of a command: it changes the engine and returns or stops. A stop keeps the changes made before it
(60_exceptions.md R272). -/
abbrev Cmd (α : Type) := EStateM Stop Engine α

/-- `raise E` (00_scope.md R14). -/
def raise {α : Type} (e : Err) : Cmd α := throw (.raise e)

/-- Raise unless a condition holds. -/
def require (ok : Bool) (e : Err) : Cmd Unit := if ok then pure () else raise e

/-- `MemRead(addr, 1)` (00_scope.md R14, 20_memory.md R62, R63). -/
def memRead (a : Addr) : Cmd Byte := do
  let c ← get
  if c.platform.backs a then
    match c.mem.read a.toNat with
    | some b => pure b
    | none => throw (.fault (.unwrittenMem a))
  else throw (.wait (.unbacked a))

/-- `MemWrite(addr, 1, v)` (00_scope.md R14, 20_memory.md R62, R63). -/
def memWrite (a : Addr) (b : Byte) : Cmd Unit := do
  let c ← get
  if c.platform.backs a then set { c with mem := c.mem.write a.toNat b }
  else throw (.wait (.unbacked a))

/-- Record a completed handshake. -/
def Ports.record (p : Ports) (e : PortEvent) : Ports := { p with log := p.log ++ [e] }

/-- `PullByte()` answered with a byte, or `SRC_EXHAUSTED` on `EOF` (40_bitreader.md R121). With no answer ready the core waits
(R125). A byte after `EOF` is refused (93_implementation_defined.md U5). -/
def pullByte : Cmd Byte := do
  let c ← get
  match c.ports.pullQ with
  | [] => throw (.wait .pull)
  | .eof :: rest =>
      set { c with ports := { c.ports with pullQ := rest, pullEnded := true }.record (.pull .eof) }
      raise .srcExhausted
  | .byte b :: rest =>
      if c.ports.pullEnded then throw (.refuse .byteAfterEof)
      else
        set { c with ports := { c.ports with pullQ := rest }.record (.pull (.byte b)) }
        pure b

/-- `PushByte(b)`: completes when the host accepts the byte (20_memory.md R66). -/
def pushByte (b : Byte) : Cmd Unit := do
  let c ← get
  match c.ports.pushReady with
  | 0 => throw (.wait (.push b))
  | n + 1 => set { c with ports := { c.ports with pushReady := n }.record (.push b) }

/-- `ReadDest(pos)`: the host's answer is taken as given (43_window.md R196). -/
def readDest (pos : Word) : Cmd Byte := do
  let c ← get
  match c.ports.readDestQ with
  | [] => throw (.wait (.readDest pos))
  | b :: rest =>
      set { c with ports := { c.ports with readDestQ := rest }.record (.readDest pos b) }
      pure b

/-- The next byte of the resident source slice (40_bitreader.md R121). -/
def residentByte : Cmd Byte := do
  let c ← get
  if c.srcPos = c.latch.srcLen then raise .srcExhausted
  else memRead (c.latch.srcBase + c.srcPos)

/-- `FetchSourceByte()` (40_bitreader.md R121), the only access to the source (R120). -/
def fetchSourceByte : Cmd Byte := do
  let c ← get
  let b ← if c.latch.ctrl.srcPull then pullByte else residentByte
  modify fun c => { c with srcPos := c.srcPos + 1 }
  pure b

/-- `LEN[i]` (42_huffman.md R176); an entry never written faults (93_implementation_defined.md U1). -/
def lenRead (i : Nat) : Cmd (BitVec 4) := do
  let c ← get
  match c.len.read i with
  | some v => pure v
  | none => throw (.fault (.unwrittenLen i))

/-- `LEN[i] <- v` (42_huffman.md R175). -/
def lenWrite (i : Nat) (v : BitVec 4) : Cmd Unit := modify fun c => { c with len := c.len.write i v }

/-- An entry of a tree table; an entry never written faults (93_implementation_defined.md U1). -/
def treeEntry (s : Slot) (table : Cells (BitVec 9)) (i : Nat) : Cmd (BitVec 9) :=
  match table.read i with
  | some v => pure v
  | none => throw (.fault (.unwrittenTree s))

/-- `RING[i]`; a byte never written faults (93_implementation_defined.md U1). -/
def ringRead (i : Nat) : Cmd Byte := do
  let c ← get
  match c.ring.read i with
  | some b => pure b
  | none => throw (.fault (.unwrittenRing i))

/-- The check of every command that needs a stream (40_bitreader.md R130, 43_window.md section 3, 44_inflate.md R224). -/
def requireStream : Cmd Unit := do
  let c ← get
  require (c.pstate ≠ .idle) .noStream

/-- What an error leaves in the registers of a command other than `STEP` (60_exceptions.md R272). There is no trap
entry: nothing else is saved or changed (R279), and no return from one (R280). -/
def Engine.takeError (c : Engine) (e : Err) : Engine := { c with err := e, result := 0 }

/-- What an error met inside the sequencer loop leaves: the stream is terminal and `RESULT` is the number of bytes produced
(44_inflate.md R235, 60_exceptions.md R273). -/
def Engine.takeStepError (c : Engine) (e : Err) (terminal : PState) (produced : Word) : Engine :=
  { c with streamErr := e, pstate := terminal, result := produced, err := e }

/-- A command ends: `BUSY` falls (60_exceptions.md R271). -/
def State.complete (s : State) (c : Engine) : State := { s with toEngine := c, busy := false, running := none }

/-- A command waits: `BUSY` stays 1 and the command stays in the core (60_exceptions.md R288, 40_bitreader.md R125). -/
def State.suspend (s : State) (i : Instr) (start c : Engine) (w : Waiting) : State :=
  { s with toEngine := c, busy := true, running := some ⟨i, start, w⟩ }

/-- Run a command on an engine whose `ERR` acceptance has cleared. `body` returns what to write to `RESULT`, or `none` to
leave it. An illegal operand raises before any other effect (30_encoding.md R95, 60_exceptions.md R274). -/
def runCmd (i : Instr) (body : Cmd (Option Word)) (s : State) : Host.Outcome State Fault Refusal :=
  let start : Engine := { s.toEngine with err := .none }
  if i.wf then
    match body.run start with
    | .ok r c => .next (s.complete { c with result := r.getD c.result })
    | .error (.raise e) c => .next (s.complete (c.takeError e))
    | .error (.wait w) c => .next (s.suspend i start c w)
    | .error (.fault f) _ => .fault f
    | .error (.refuse r) _ => .refused r
  else .next (s.complete (start.takeError .illegalCmd))

end Machine

end Sys2Proof
end

