-- ==== Sys2Proof/Machine/BitReader.lean ====
section
/-! DEFINITION. The bit reader: `GETBITS`, `GETBYTE`, `ALIGN` (40_bitreader.md). -/

namespace Sys2Proof.Machine

/-- Fetch a byte when no bit is held (40_bitreader.md R122). -/
def refill : Cmd Unit := do
  let c ← get
  if c.bitcnt = 0 then
    let b ← fetchSourceByte
    modify fun c => { c with bitacc := b.setWidth 32, bitcnt := 8 }
  else pure ()

/-- Take the low bit of the accumulator (40_bitreader.md R122). -/
def takeBit : Cmd Bool := do
  let c ← get
  set { c with bitacc := c.bitacc >>> 1, bitcnt := c.bitcnt - 1 }
  pure (c.bitacc.getLsbD 0)

/-- `GetBit()` (40_bitreader.md R122). -/
def getBit : Cmd Bool := do
  refill
  takeBit

/-- The loop of `GetBits`: `k` more bits, the next one going to bit `i` of `v` (40_bitreader.md R123). -/
def getBitsLoop : (k i : Nat) → (v : Word) → Cmd Word
  | 0, _, v => pure v
  | k + 1, i, v => do
      let b ← getBit
      getBitsLoop k (i + 1) (v ||| ((BitVec.ofBool b).setWidth 32 <<< i))

/-- `GetBits(n)`, first bit read in bit 0 (40_bitreader.md R123, 20_memory.md R67). -/
def getBits (n : Nat) : Cmd Word := getBitsLoop n 0 0

/-- `Align()` (40_bitreader.md R126). -/
def alignBits : Cmd Unit := modify fun c => { c with bitacc := 0, bitcnt := 0 }

/-- `GETBITS n` (40_bitreader.md R127). -/
def execGetbits (n : BitVec 6) (s : State) : Host.Outcome State Fault Refusal :=
  runCmd (.getbits n) (s := s) do
    requireStream
    some <$> getBits n.toNat

/-- `GETBYTE`: the same effect as `GETBITS 8` (40_bitreader.md R128). -/
def execGetbyte (s : State) : Host.Outcome State Fault Refusal :=
  runCmd .getbyte (s := s) do
    requireStream
    some <$> getBits 8

/-- `ALIGN` (40_bitreader.md R129). -/
def execAlign (s : State) : Host.Outcome State Fault Refusal :=
  runCmd .align (s := s) do
    requireStream
    alignBits
    pure (some 0)

end Sys2Proof.Machine
end

