-- ==== Sys2Proof/Machine/Flags.lean ====
section
/-! DEFINITION. The codes of the status fields, the `STATUS` view, the seeds and the reported form of the checksum
(10_state.md R22, R28, R30, R31; 41_checksum.md R141, R142; 60_exceptions.md R270). -/

namespace Sys2Proof.Machine

/-- The code of a checksum kind (10_state.md R34). -/
def CkKind.code : CkKind → BitVec 2
  | .none => 0
  | .adler => 1
  | .crc => 2

/-- The kind a 2-bit code names; the reserved code 3 is stored as 0 (10_state.md R22). -/
def CkKind.ofCode (v : BitVec 2) : CkKind :=
  match v.toNat with
  | 1 => .adler
  | 2 => .crc
  | _ => .none

/-- The code of a trailer kind (10_state.md R22). -/
def Trailer.code : Trailer → BitVec 2
  | .none => 0
  | .zlib => 1
  | .gzip => 2

/-- The trailer a 2-bit code names; the reserved code 3 is stored as 0 (10_state.md R22). -/
def Trailer.ofCode (v : BitVec 2) : Trailer :=
  match v.toNat with
  | 1 => .zlib
  | 2 => .gzip
  | _ => .none

/-- What a host write of `w` stores in `CTRL` (10_state.md R22). -/
def Ctrl.ofWord (w : Word) : Ctrl :=
  { ckKind := CkKind.ofCode (w.extractLsb' 0 2)
    dstRes := w.getLsbD 2
    dstPush := w.getLsbD 3
    rdestEn := w.getLsbD 4
    srcPull := w.getLsbD 5
    trailer := Trailer.ofCode (w.extractLsb' 6 2) }

/-- A flag as one bit. -/
def bit (b : Bool) : BitVec 1 := BitVec.ofBool b

/-- What `CTRL` and `LCTRL` read as (10_state.md R22, R38). -/
def Ctrl.toWord (c : Ctrl) : Word :=
  0#24 ++ c.trailer.code ++ bit c.srcPull ++ bit c.rdestEn ++ bit c.dstPush ++ bit c.dstRes ++ c.ckKind.code

/-- The code of a sequencer state (10_state.md R31). -/
def PState.code : PState → BitVec 4
  | .idle => 0
  | .hdr => 1
  | .stored => 2
  | .huff => 3
  | .copy => 4
  | .trailer => 5
  | .done => 6
  | .dataError => 7
  | .checksumError => 8
  | .sourceExhausted => 9

/-- The number of an error (60_exceptions.md R270). -/
def Err.code : Err → BitVec 4
  | .none => 0
  | .badBlockType => 1
  | .badStoredLen => 2
  | .badCounts => 3
  | .treeOversub => 4
  | .invalidCode => 5
  | .badRepeat => 6
  | .badSymbol => 7
  | .invalidDistance => 8
  | .checksum => 9
  | .srcExhausted => 10
  | .illegalCmd => 11
  | .destFull => 12
  | .treeNotBuilt => 13
  | .noStream => 14

/-- `STATUS` (10_state.md R28), most significant field first. -/
def State.statusWord (s : State) : Word :=
  0#5 ++ s.streamErr.code ++ s.ckKind.code ++ s.bitcnt ++ bit s.ct.valid ++ bit s.dt.valid ++ bit s.lt.valid
    ++ s.btype ++ bit s.bfinal ++ s.err.code ++ s.pstate.code ++ bit s.drop ++ bit s.busy

/-- `Seed(kind)` (41_checksum.md R141). -/
def CkKind.seed : CkKind → Word
  | .none => 0
  | .adler => 1
  | .crc => 0xFFFFFFFF#32

/-- `Report()` for a kind and a running state (41_checksum.md R142). -/
def CkKind.report : CkKind → Word → Word
  | .none, _ => 0
  | .adler, st => st
  | .crc, st => ~~~st

/-- `Report()` (41_checksum.md R142), the value of `CKSUM` (10_state.md R30). -/
def Engine.report (c : Engine) : Word := c.ckKind.report c.ckState

/-- The terminal state a `STEP` error leads to (44_inflate.md R235). -/
def Err.terminal : Err → PState
  | .srcExhausted => .sourceExhausted
  | .checksum => .checksumError
  | _ => .dataError

end Sys2Proof.Machine
end

