-- ==== Sys2Proof/Machine/Checksum.lean ====
section
/-! DEFINITION. The checksum accumulators: `CKINIT`, `CKSET`, `CKBYTE` (41_checksum.md). -/

namespace Sys2Proof.Machine

/-- The Adler-32 arm of `CkUpdate` (41_checksum.md R143): `s1` in the low half, `s2` in the high half. -/
def adlerUpdate (st : Word) (b : Byte) : Word :=
  let s1 := ((st.extractLsb' 0 16).toNat + b.toNat) % 65521
  let s2 := ((st.extractLsb' 16 16).toNat + s1) % 65521
  BitVec.ofNat 16 s2 ++ BitVec.ofNat 16 s1

/-- One round of the reflected CRC-32 (41_checksum.md R143). -/
def crcRound (c : Word) : Word :=
  if c.getLsbD 0 then (c >>> 1) ^^^ 0xEDB88320#32 else c >>> 1

/-- `k` rounds. -/
def crcRounds : Nat → Word → Word
  | 0, c => c
  | k + 1, c => crcRounds k (crcRound c)

/-- The CRC-32 arm of `CkUpdate` (41_checksum.md R143). -/
def crcUpdate (st : Word) (b : Byte) : Word := crcRounds 8 (st ^^^ b.setWidth 32)

/-- `CkUpdate(b)` on a running state (41_checksum.md R143). -/
def CkKind.update : CkKind → Word → Byte → Word
  | .none, st, _ => st
  | .adler, st, b => adlerUpdate st b
  | .crc, st, b => crcUpdate st b

/-- `CkUpdate(b)` (41_checksum.md R143). -/
def ckUpdate (b : Byte) : Cmd Unit := modify fun c => { c with ckState := c.ckKind.update c.ckState b }

/-- `return Report()` (41_checksum.md R142). -/
def reportResult : Cmd (Option Word) := do
  let c ← get
  pure (some c.report)

/-- `CKINIT kind` (41_checksum.md R144). -/
def execCkinit (kind : BitVec 2) (s : State) : Host.Outcome State Fault Refusal :=
  runCmd (.ckinit kind) (s := s) do
    modify fun c => { c with ckKind := CkKind.ofCode kind, ckState := (CkKind.ofCode kind).seed }
    reportResult

/-- `CKSET kind` (41_checksum.md R145): the running state comes from `DATA`, kind none takes 0. -/
def execCkset (kind : BitVec 2) (s : State) : Host.Outcome State Fault Refusal :=
  runCmd (.ckset kind) (s := s) do
    modify fun c => { c with ckKind := CkKind.ofCode kind, ckState := if kind = 0 then 0 else c.data }
    reportResult

/-- `CKBYTE b` (41_checksum.md R146). -/
def execCkbyte (b : Byte) (s : State) : Host.Outcome State Fault Refusal :=
  runCmd (.ckbyte b) (s := s) do
    ckUpdate b
    reportResult

end Sys2Proof.Machine
end

