-- ==== Sys2Proof/Machine/Huffman.lean ====
section
/-! DEFINITION. The Huffman engine: `LENW`, `LENR`, `BUILD`, `FIXED`, `DECODE` (42_huffman.md). -/

namespace Sys2Proof.Machine

/-- `cnt[0..15]`: how many symbols have each length, entry 0 cleared (42_huffman.md R165). -/
def lengthCounts (ls : List (BitVec 4)) : List Nat :=
  (List.range 16).map fun l => if l = 0 then 0 else ls.countP fun x => decide (x.toNat = l)

/-- Whether `left` goes negative somewhere over the counts of the lengths 1 to 15 (42_huffman.md R165). -/
def leftNegative : Int → List Nat → Bool
  | _, [] => false
  | left, c :: rest => decide (2 * left - (c : Int) < 0) || leftNegative (2 * left - (c : Int)) rest

/-- Whether a length array is over-subscribed (42_huffman.md R163, R165). -/
def overSubscribed (ls : List (BitVec 4)) : Bool := leftNegative 1 (lengthCounts ls).tail

/-- `offs[0..15]`: entry `l` is the sum of the counts below `l` (42_huffman.md R165). -/
def offsets (cnt : List Nat) : List Nat := (List.range 16).map fun l => (cnt.take l).sum

/-- The loop that places each symbol at the next free place of its length (42_huffman.md R165); `i` is the index of the
first symbol of `ls`. -/
def placeSymbols : (i : Nat) → (ls : List (BitVec 4)) → (offs : List Nat) → (tab : Cells (BitVec 9)) → Cells (BitVec 9)
  | _, [], _, tab => tab
  | i, l :: rest, offs, tab =>
      if l = 0 then placeSymbols (i + 1) rest offs tab
      else
        let o := offs.getD l.toNat 0
        placeSymbols (i + 1) rest (offs.set l.toNat (o + 1)) (tab.write o (BitVec.ofNat 9 i))

/-- A table `COUNT[0..15]` holding the given counts. -/
def countTable (cnt : List Nat) : Cells (BitVec 9) := (List.range 16).map fun l => (l, BitVec.ofNat 9 (cnt.getD l 0))

/-- The slot after a successful build (42_huffman.md R165): `TRANS` entries past the built ones keep what they held. -/
def builtTree (old : Tree) (ls : List (BitVec 4)) : Tree :=
  let cnt := lengthCounts ls
  { valid := true, count := countTable cnt, trans := placeSymbols 0 ls (offsets cnt) old.trans }

/-- The slot after a failed build (42_huffman.md R166). -/
def failedTree (old : Tree) : Tree := { valid := false, count := countTable [], trans := old.trans }

/-- `Build(s, L)` (42_huffman.md R165, R166). -/
def buildTree (s : Slot) (ls : List (BitVec 4)) : Cmd Unit := do
  let c ← get
  if overSubscribed ls then
    set (c.setTree s (failedTree (c.tree s)))
    raise .treeOversub
  else set (c.setTree s (builtTree (c.tree s) ls))

/-- `LEN[base..base+num-1]`. -/
def readLens : (base num : Nat) → Cmd (List (BitVec 4))
  | _, 0 => pure []
  | base, num + 1 => do
      let v ← lenRead base
      let rest ← readLens (base + 1) num
      pure (v :: rest)

/-- The fixed literal/length lengths (42_huffman.md R167). -/
def fixedLtLengths : List (BitVec 4) :=
  List.replicate 144 8 ++ List.replicate 112 9 ++ List.replicate 24 7 ++ List.replicate 8 8

/-- The fixed distance lengths (42_huffman.md R167). -/
def fixedDtLengths : List (BitVec 4) := List.replicate 30 5

/-- `LoadFixed()` (42_huffman.md R168). -/
def loadFixed : Cmd Unit := do
  buildTree .lt fixedLtLengths
  buildTree .dt fixedDtLengths

/-- The loop of `Decode` (42_huffman.md R172): `k` lengths left, `l` the next one. `code` is the running value before the
shift that makes room for the next bit, so the spec's `code | GetBit()` after `code << 1` is `2*code + bit` here
(20_memory.md R68). -/
def decodeLoop (s : Slot) (t : Tree) : (k l code first index : Nat) → Cmd (BitVec 9)
  | 0, _, _, _, _ => raise .invalidCode
  | k + 1, l, code, first, index => do
      let b ← getBit
      let code := 2 * code + b.toNat
      let c ← treeEntry s t.count l
      if code - first < c.toNat then treeEntry s t.trans (index + (code - first))
      else decodeLoop s t k (l + 1) code (2 * (first + c.toNat)) (index + c.toNat)

/-- `Decode(s)` (42_huffman.md R172, R173). -/
def decodeSymbol (s : Slot) : Cmd (BitVec 9) := do
  let c ← get
  require (c.tree s).valid .treeNotBuilt
  decodeLoop s (c.tree s) Config.maxBits 1 0 0 0

/-- `LENW idx, len` (42_huffman.md R175). -/
def execLenw (idx : BitVec 9) (len : BitVec 4) (s : State) : Host.Outcome State Fault Refusal :=
  runCmd (.lenw idx len) (s := s) do
    lenWrite idx.toNat len
    pure (some 0)

/-- `LENR idx` (42_huffman.md R176). -/
def execLenr (idx : BitVec 9) (s : State) : Host.Outcome State Fault Refusal :=
  runCmd (.lenr idx) (s := s) do
    let v ← lenRead idx.toNat
    pure (some (v.setWidth 32))

/-- `BUILD slot, base, num` (42_huffman.md R177). -/
def execBuild (slot : BitVec 2) (base num : BitVec 9) (s : State) : Host.Outcome State Fault Refusal :=
  runCmd (.build slot base num) (s := s) do
    let ls ← readLens base.toNat num.toNat
    buildTree (Slot.ofCode slot) ls
    pure (some 0)

/-- `FIXED` (42_huffman.md R178). -/
def execFixed (s : State) : Host.Outcome State Fault Refusal :=
  runCmd .fixed (s := s) do
    loadFixed
    pure (some 0)

/-- `DECODE slot` (42_huffman.md R179). -/
def execDecode (slot : BitVec 2) (s : State) : Host.Outcome State Fault Refusal :=
  runCmd (.decode slot) (s := s) do
    requireStream
    let sym ← decodeSymbol (Slot.ofCode slot)
    pure (some (sym.setWidth 32))

end Sys2Proof.Machine
end

