-- ==== Sys2Proof/Machine/Window.lean ====
section
/-! DEFINITION. The output sink and the sliding window: `PUT`, `GET`, `COPY`, `PRELOAD` (43_window.md). -/

namespace Sys2Proof.Machine

/-- `RingWrite(b)` (43_window.md R191). -/
def ringWrite (b : Byte) : Cmd Unit := modify fun c =>
  { c with
    ring := c.ring.write c.ringIdx.toNat b
    ringIdx := BitVec.ofNat 16 ((c.ringIdx.toNat + 1) % c.latch.ringCap.toNat)
    ringFill := BitVec.ofNat 16 (min (c.ringFill.toNat + 1) c.latch.ringCap.toNat) }

/-- The resident write of `Emit` (43_window.md R190). -/
def emitResident (b : Byte) : Cmd Unit := do
  let c ← get
  if c.latch.ctrl.dstRes then
    memWrite (c.latch.dstBase + c.dstPos) b
    modify fun c => { c with dstPos := c.dstPos + 1 }
  else pure ()

/-- The push of `Emit` (43_window.md R190). -/
def emitPush (b : Byte) : Cmd Unit := do
  let c ← get
  if c.latch.ctrl.dstPush then pushByte b else pure ()

/-- The ring write of `Emit` (43_window.md R190). -/
def emitRing (b : Byte) : Cmd Unit := do
  let c ← get
  if c.latch.ringCap = 0 then pure () else ringWrite b

/-- The counters of `Emit` (43_window.md R190). -/
def emitCount : Cmd Unit := modify fun c =>
  { c with outCount := c.outCount + 1, outSat := BitVec.ofNat 16 (min (c.outSat.toNat + 1) 32768) }

/-- `Emit(b)`, its steps in the spec's order (43_window.md R190). -/
def emit (b : Byte) : Cmd Unit := do
  emitResident b
  emitPush b
  emitRing b
  ckUpdate b
  emitCount

/-- `Covered(d)` (43_window.md R193). -/
def Engine.covered (c : Engine) (d : Nat) : Bool :=
  decide (1 ≤ d) && decide (d ≤ Config.windowMax) &&
    ((c.latch.ctrl.dstRes && decide (d ≤ c.dstPos.toNat))
      || (decide (c.latch.ringCap ≠ 0) && decide (d ≤ c.ringFill.toNat))
      || (c.latch.ctrl.rdestEn && decide (d ≤ c.outSat.toNat)))

/-- `(RING_IDX - d) mod L_RING_CAP` (43_window.md R194), as a non-negative remainder (00_scope.md R12). -/
def Engine.ringPlace (c : Engine) (d : Nat) : Nat :=
  (((c.ringIdx.toNat : Int) - (d : Int)) % (c.latch.ringCap.toNat : Int)).toNat

/-- `HistRead(d)` (43_window.md R194, R195). -/
def histRead (d : Nat) : Cmd Byte := do
  let c ← get
  if c.latch.ctrl.dstRes && decide (d ≤ c.dstPos.toNat) then
    memRead (c.latch.dstBase + c.dstPos - BitVec.ofNat 32 d)
  else if decide (c.latch.ringCap ≠ 0) && decide (d ≤ c.ringFill.toNat) then
    ringRead (c.ringPlace d)
  else readDest (c.outCount - BitVec.ofNat 32 d)

/-- The room left in the resident destination (43_window.md R199). -/
def Engine.room (c : Engine) : Nat := (c.latch.dstLen - c.dstPos).toNat

/-- The loop of `COPY` (43_window.md R202). -/
def copyLoop (d : Nat) : Nat → Cmd Unit
  | 0 => pure ()
  | n + 1 => do
      let b ← histRead d
      emit b
      copyLoop d n

/-- `PUT b` (43_window.md R200). -/
def execPut (b : Byte) (s : State) : Host.Outcome State Fault Refusal :=
  runCmd (.put b) (s := s) do
    requireStream
    let c ← get
    require (!(c.latch.ctrl.dstRes && decide (c.dstPos = c.latch.dstLen))) .destFull
    emit b
    pure (some 0)

/-- `GET dist` (43_window.md R201). -/
def execGet (dist : BitVec 16) (s : State) : Host.Outcome State Fault Refusal :=
  runCmd (.get dist) (s := s) do
    requireStream
    let c ← get
    require (c.covered dist.toNat) .invalidDistance
    let b ← histRead dist.toNat
    pure (some (b.setWidth 32))

/-- `COPY len, dist` (43_window.md R202). -/
def execCopy (len : BitVec 9) (dist : BitVec 16) (s : State) : Host.Outcome State Fault Refusal :=
  runCmd (.copy len dist) (s := s) do
    requireStream
    let c ← get
    require (c.covered dist.toNat) .invalidDistance
    require (!(c.latch.ctrl.dstRes && decide (c.room < len.toNat))) .destFull
    copyLoop dist.toNat len.toNat
    pure (some (len.setWidth 32))

/-- `PRELOAD b` (43_window.md R203): the byte enters the ring and nothing else (R192). -/
def execPreload (b : Byte) (s : State) : Host.Outcome State Fault Refusal :=
  runCmd (.preload b) (s := s) do
    requireStream
    let c ← get
    require (decide (c.latch.ringCap ≠ 0) && decide (c.pstate = .hdr) && decide (c.outSat = 0)) .illegalCmd
    ringWrite b
    pure (some 0)

end Sys2Proof.Machine
end

