-- ==== Sys2Proof/Machine/Inflate.lean ====
section
/-! DEFINITION. The inflate sequencer: `NOP`, `INIT`, `STEP` (44_inflate.md). -/

namespace Sys2Proof.Machine

/-- `NOP`: `RESULT` is not written (44_inflate.md R220). -/
def execNop (s : State) : Host.Outcome State Fault Refusal :=
  runCmd .nop (pure none) s

/-- The configuration the host registers hold (10_state.md R38, 44_inflate.md R222). -/
def Engine.hostConfig (c : Engine) : Latch :=
  { ctrl := c.ctrl, ringCap := c.ringCapReg, srcBase := c.srcBase, srcLen := c.srcLen
    dstBase := c.dstBase, dstLen := c.dstLen }

/-- The engine after `INIT` (44_inflate.md R222, the "after INIT" column of 10_state.md R45). A new stream has had no `EOF` yet
(log entry 11). -/
def Engine.startStream (c : Engine) : Engine :=
  { c with
    latch := c.hostConfig
    ckKind := c.ctrl.ckKind, ckState := c.ctrl.ckKind.seed
    bitacc := 0, bitcnt := 0, srcPos := 0
    dstPos := 0, outCount := 0, outSat := 0
    ringIdx := 0, ringFill := 0
    srem := 0, lzRem := 0, lzDist := 0
    bfinal := false, btype := 0
    streamErr := .none
    pstate := .hdr
    ports := { c.ports with pullEnded := false } }

/-- `INIT` (44_inflate.md R222). A configuration whose resident slices overlap is refused (20_memory.md R64). -/
def execInit (s : State) : Host.Outcome State Fault Refusal :=
  runCmd .init (s := s) do
    let c ← get
    if c.hostConfig.overlaps then throw (.refuse .overlappingSlices)
    else
      set c.startStream
      pure (some 0)

/-- `PERM` (44_inflate.md R228). -/
def lenPerm : List Nat := [16, 17, 18, 0, 8, 7, 9, 6, 10, 5, 11, 4, 12, 3, 13, 2, 14, 1, 15]

/-- `LEN_BASE` and `LEN_EXTRA` of the length symbols 257 to 285 (44_inflate.md R229). -/
def lenBase : List Nat :=
  [3, 4, 5, 6, 7, 8, 9, 10, 11, 13, 15, 17, 19, 23, 27, 31, 35, 43, 51, 59, 67, 83, 99, 115, 131, 163, 195, 227, 258]

def lenExtra : List Nat :=
  [0, 0, 0, 0, 0, 0, 0, 0, 1, 1, 1, 1, 2, 2, 2, 2, 3, 3, 3, 3, 4, 4, 4, 4, 5, 5, 5, 5, 0]

/-- `DIST_BASE` and `DIST_EXTRA` of the distance symbols 0 to 29 (44_inflate.md R229). -/
def distBase : List Nat :=
  [1, 2, 3, 4, 5, 7, 9, 13, 17, 25, 33, 49, 65, 97, 129, 193, 257, 385, 513, 769, 1025, 1537, 2049, 3073, 4097, 6145,
    8193, 12289, 16385, 24577]

def distExtra : List Nat :=
  [0, 0, 0, 0, 1, 1, 2, 2, 3, 3, 4, 4, 5, 5, 6, 6, 7, 7, 8, 8, 9, 9, 10, 10, 11, 11, 12, 12, 13, 13]

/-- `for i in 0..18: LEN[i] <- 0`, and more generally `k` entries from `i` set to `v` (44_inflate.md R228). -/
def fillLens (v : BitVec 4) : (i k : Nat) → Cmd Unit
  | _, 0 => pure ()
  | i, k + 1 => do
      lenWrite i v
      fillLens v (i + 1) k

/-- `LEN[PERM[i]] <- GetBits(3)` for the given places (44_inflate.md R228). -/
def readCodeLens : List Nat → Cmd Unit
  | [] => pure ()
  | p :: rest => do
      let v ← getBits 3
      lenWrite p (v.setWidth 4)
      readCodeLens rest

/-- The value and the count of a repeat code at position `num` (44_inflate.md R228). -/
def repeatCode (sym num : Nat) : Cmd (BitVec 4 × Nat) :=
  if sym = 16 then
    if num = 0 then raise .badRepeat
    else do
      let v ← lenRead (num - 1)
      let r ← getBits 2
      pure (v, 3 + r.toNat)
  else if sym = 17 then do
    let r ← getBits 3
    pure (0, 3 + r.toNat)
  else do
    let r ← getBits 7
    pure (0, 11 + r.toNat)

/-- The `while num < total` loop of `DynamicHeader` (44_inflate.md R228). Every pass raises `num`, so `total` passes are enough;
the first argument counts them. -/
def readLengths (total : Nat) : (passes num : Nat) → Cmd Unit
  | 0, _ => pure ()
  | k + 1, num =>
      if num < total then do
        let sym ← decodeSymbol .ct
        if sym.toNat < 16 then
          lenWrite num (sym.setWidth 4)
          readLengths total k (num + 1)
        else
          let r ← repeatCode sym.toNat num
          require (decide (num + r.2 ≤ total)) .badRepeat
          fillLens r.1 num r.2
          readLengths total k (num + r.2)
      else pure ()

/-- `DynamicHeader()` (44_inflate.md R228). -/
def dynamicHeader : Cmd Unit := do
  let hlit := (← getBits 5).toNat + 257
  let hdist := (← getBits 5).toNat + 1
  let hclen := (← getBits 4).toNat + 4
  require (decide (hlit ≤ 286) && decide (hdist ≤ 30)) .badCounts
  fillLens 0 0 19
  readCodeLens (lenPerm.take hclen)
  let cl ← readLens 0 19
  buildTree .ct cl
  readLengths (hlit + hdist) (hlit + hdist) 0
  let ll ← readLens 0 hlit
  buildTree .lt ll
  let dl ← readLens hlit hdist
  buildTree .dt dl

/-- `PSTATE <- p`. -/
def setPState (p : PState) : Cmd Unit := modify fun c => { c with pstate := p }

/-- The stored-block arm of `ReadHeader` (44_inflate.md R226, 20_memory.md R69). -/
def storedHeader : Cmd Unit := do
  alignBits
  let len ← getBits 16
  let nlen ← getBits 16
  require (decide (nlen = len ^^^ 0xFFFF#32)) .badStoredLen
  modify fun c => { c with srem := len.setWidth 16, pstate := .stored }

/-- `ReadHeader()` (44_inflate.md R226, R227). -/
def readHeader : Cmd Unit := do
  let f ← getBits 1
  modify fun c => { c with bfinal := f.getLsbD 0 }
  let t ← getBits 2
  modify fun c => { c with btype := t.setWidth 2 }
  match t.toNat with
  | 0 => storedHeader
  | 1 => do
      loadFixed
      setPState .huff
  | 2 => do
      dynamicHeader
      setPState .huff
  | _ => raise .badBlockType

/-- `EndOfBlock()` (44_inflate.md R233). -/
def endOfBlock : Cmd Unit := modify fun c =>
  { c with pstate := if c.bfinal then (if c.latch.ctrl.trailer = .none then .done else .trailer) else .hdr }

/-- `StoredStep()`, returning how many bytes it emitted (44_inflate.md R230). -/
def storedStep : Cmd Nat := do
  let c ← get
  if c.srem = 0 then
    endOfBlock
    pure 0
  else
    let b ← getBits 8
    emit (b.setWidth 8)
    modify fun c => { c with srem := c.srem - 1 }
    pure 1

/-- The length/distance arm of `HuffStep()` for the length symbol `257 + i` (44_inflate.md R231). -/
def matchStep (i : Nat) : Cmd Unit := do
  let le ← getBits (lenExtra.getD i 0)
  let ds ← decodeSymbol .dt
  require (decide (ds.toNat < 30)) .badSymbol
  let de ← getBits (distExtra.getD ds.toNat 0)
  let dist := distBase.getD ds.toNat 0 + de.toNat
  let c ← get
  require (c.covered dist) .invalidDistance
  modify fun c => { c with
    lzRem := BitVec.ofNat 9 (lenBase.getD i 0 + le.toNat), lzDist := BitVec.ofNat 16 dist, pstate := .copy }

/-- `HuffStep()`, returning how many bytes it emitted (44_inflate.md R231). -/
def huffStep : Cmd Nat := do
  let sym ← decodeSymbol .lt
  if sym.toNat < 256 then
    emit (sym.setWidth 8)
    pure 1
  else if sym.toNat = 256 then
    endOfBlock
    pure 0
  else if sym.toNat ≤ 285 then
    matchStep (sym.toNat - 257)
    pure 0
  else raise .badSymbol

/-- `CopyStep()`, returning how many bytes it emitted (44_inflate.md R232). -/
def copyStep : Cmd Nat := do
  let c ← get
  if c.lzRem = 0 then
    setPState .huff
    pure 0
  else
    let b ← histRead c.lzDist.toNat
    emit b
    modify fun c => { c with lzRem := c.lzRem - 1 }
    pure 1

/-- Four bytes of the bit stream. -/
def getBytes4 : Cmd (Byte × Byte × Byte × Byte) := do
  let b0 ← getBits 8
  let b1 ← getBits 8
  let b2 ← getBits 8
  let b3 ← getBits 8
  pure (b0.setWidth 8, b1.setWidth 8, b2.setWidth 8, b3.setWidth 8)

/-- `ReadTrailer()` (44_inflate.md R234, 20_memory.md R69). The trailer is compared only when the running kind matches it, and
`ISIZE` never. -/
def readTrailer : Cmd Unit := do
  alignBits
  let c ← get
  if c.latch.ctrl.trailer = .zlib then
    let (b0, b1, b2, b3) ← getBytes4
    let c ← get
    require (!(decide (c.ckKind = .adler) && decide (b0 ++ b1 ++ b2 ++ b3 ≠ c.report))) .checksum
  else
    let (b0, b1, b2, b3) ← getBytes4
    let _ ← getBytes4
    let c ← get
    require (!(decide (c.ckKind = .crc) && decide (b3 ++ b2 ++ b1 ++ b0 ≠ c.report))) .checksum
  setPState .done

/-- `StepOnce()`, returning how many bytes it emitted (44_inflate.md R225). The last five states have no action and `STEP` never
calls it in them (R224). -/
def stepOnce : Cmd Nat := do
  let c ← get
  match c.pstate with
  | .hdr => do
      readHeader
      pure 0
  | .stored => storedStep
  | .huff => huffStep
  | .copy => copyStep
  | .trailer => do
      readTrailer
      pure 0
  | .idle | .done | .dataError | .checksumError | .sourceExhausted => pure 0

/-- How many bits the source can still give, counting every answer ready at the pull port as a byte. -/
def Engine.bitsLeft (c : Engine) : Nat :=
  c.bitcnt.toNat + 8 * (if c.latch.ctrl.srcPull then c.ports.pullQ.length else (c.latch.srcLen - c.srcPos).toNat)

/-- A bound on the passes of the `STEP` loop (log entry 13): an action that neither emits a byte nor takes a bit from the
source leaves `STORED` or `COPY`, and the next one takes a bit, emits a byte or ends the loop. -/
def Engine.stepBound (c : Engine) (ecap : Nat) : Nat := 2 * (c.bitsLeft + ecap) + 2

/-- The loop of `STEP` (44_inflate.md R224). An error inside an action makes the stream terminal (R235). -/
def stepLoop (ecap : Nat) : (passes produced : Nat) → Cmd (Option Word)
  | 0, _ => throw (.fault .loopBound)
  | k + 1, produced => fun c =>
      if c.pstate = .done ∨ produced = ecap then .ok (some (BitVec.ofNat 32 produced)) c
      else
        match stepOnce.run c with
        | .ok n c' => (stepLoop ecap k (produced + n)).run c'
        | .error (.raise e) c' => .ok (some (BitVec.ofNat 32 produced)) (c'.takeStepError e e.terminal (BitVec.ofNat 32 produced))
        | .error stop c' => .error stop c'

/-- The byte budget of `STEP`: the operand, cut to the room of the resident destination (44_inflate.md R224). -/
def Engine.budget (c : Engine) (cap : BitVec 26) : Nat :=
  if c.latch.ctrl.dstRes then min cap.toNat c.room else cap.toNat

/-- `STEP cap` (44_inflate.md R224). `RESULT` is 0 when there is no stream or the stream already failed (10_state.md R29,
60_exceptions.md R273; log entry 12). -/
def execStep (cap : BitVec 26) (s : State) : Host.Outcome State Fault Refusal :=
  runCmd (.step cap) (s := s) do
    requireStream
    let c ← get
    match c.pstate with
    | .done => pure (some 0)
    | .dataError | .checksumError | .sourceExhausted => raise c.streamErr
    | .idle | .hdr | .stored | .huff | .copy | .trailer =>
        stepLoop (c.budget cap) (c.stepBound (c.budget cap)) 0

end Sys2Proof.Machine
end

