-- ==== Sys2Proof/Machine/Dispatch.lean ====
section
/-! DEFINITION. One arm per command, in the order of spec/opcode_table.json. -/

namespace Sys2Proof.Machine

def exec (i : Instr) (s : State) : Host.Outcome State Fault Refusal :=
  match i with
  | .nop => Sys2Proof.Machine.execNop s
  | .init => Sys2Proof.Machine.execInit s
  | .step cap => Sys2Proof.Machine.execStep cap s
  | .getbits n => Sys2Proof.Machine.execGetbits n s
  | .getbyte => Sys2Proof.Machine.execGetbyte s
  | .align => Sys2Proof.Machine.execAlign s
  | .ckinit kind => Sys2Proof.Machine.execCkinit kind s
  | .ckset kind => Sys2Proof.Machine.execCkset kind s
  | .ckbyte b => Sys2Proof.Machine.execCkbyte b s
  | .lenw idx len => Sys2Proof.Machine.execLenw idx len s
  | .lenr idx => Sys2Proof.Machine.execLenr idx s
  | .build slot base num => Sys2Proof.Machine.execBuild slot base num s
  | .fixed => Sys2Proof.Machine.execFixed s
  | .decode slot => Sys2Proof.Machine.execDecode slot s
  | .put b => Sys2Proof.Machine.execPut b s
  | .get dist => Sys2Proof.Machine.execGet dist s
  | .copy len dist => Sys2Proof.Machine.execCopy len dist s
  | .preload b => Sys2Proof.Machine.execPreload b s

end Sys2Proof.Machine
end

