-- ==== Sys2Proof/Machine/Bus.lean ====
section
/-! DEFINITION. The host's side: the register window, command acceptance, reset, system-memory writes and port answers
(20_memory.md R60, R61, R66, R70, R77; 60_exceptions.md R271; 70_reset_and_hazards.md R300, R301). -/

namespace Sys2Proof.Machine

/-- What a read of the register at an offset returns (10_state.md section 2, 20_memory.md R61): unmapped and misaligned offsets,
and `CMD`, read 0. -/
def State.regRead (s : State) (off : Nat) : Word :=
  match off with
  | 0x00 => Config.idValue
  | 0x04 => s.ctrl.toWord
  | 0x08 => s.ringCapReg.setWidth 32
  | 0x0C => s.srcBase
  | 0x10 => s.srcLen
  | 0x14 => s.dstBase
  | 0x18 => s.dstLen
  | 0x1C => s.data
  | 0x24 => s.statusWord
  | 0x28 => s.result
  | 0x2C => s.toEngine.report
  | 0x30 => s.ckState
  | 0x34 => s.bitacc
  | 0x38 => s.srcPos
  | 0x3C => s.dstPos
  | 0x40 => s.outCount
  | 0x44 => s.srem.setWidth 32
  | 0x48 => 0#7 ++ s.lzRem ++ s.lzDist
  | 0x4C => s.ringIdx.setWidth 32
  | 0x50 => s.ringFill.setWidth 32
  | 0x54 => s.outSat.setWidth 32
  | 0x58 => s.latch.ctrl.toWord
  | _ => 0

/-- A host write of `v` to an RW register (10_state.md R22 to R25); a write to any other offset is ignored
(20_memory.md R61). -/
def Engine.regWrite (c : Engine) (off : Nat) (v : Word) : Engine :=
  match off with
  | 0x04 => { c with ctrl := Ctrl.ofWord v }
  | 0x08 => { c with ringCapReg := BitVec.ofNat 16 (min v.toNat Config.ringMax) }
  | 0x0C => { c with srcBase := v }
  | 0x10 => { c with srcLen := v }
  | 0x14 => { c with dstBase := v }
  | 0x18 => { c with dstLen := v }
  | 0x1C => { c with data := v }
  | _ => c

/-- The offset of `CMD` (10_state.md R26). -/
def cmdOffset : Nat := 0x20

/-- Acceptance of a command: `DROP <- 0; ERR <- 0; BUSY <- 1` (60_exceptions.md R271). -/
def State.accept (s : State) : State :=
  { s with toEngine := { s.toEngine with err := .none }, drop := false, busy := true }

/-- A word that decoding rejects: `ERR` is 11, `RESULT` 0, and the command is over (60_exceptions.md R274). -/
def State.illegal (s : State) : State := s.complete (s.toEngine.takeError .illegalCmd)

/-- `CmdWrite(w)` (60_exceptions.md R271). -/
def cmdWrite (w : Word) (s : State) : Host.Outcome State Fault Refusal :=
  if s.busy then .next { s with drop := true }
  else
    match decode w with
    | .ok i => exec i s.accept
    | .error _ => .next s.accept.illegal

/-- A host register write (20_memory.md R61, R70): only an aligned access of four lanes inside the window counts, and while
`BUSY` = 1 the RW registers ignore it. -/
def busWrite (a : Addr) (lanes : List Byte) (s : State) : Host.Outcome State Fault Refusal :=
  match wordOfLanes lanes with
  | none => .next s
  | some v =>
      if s.platform.offset a = cmdOffset then cmdWrite v s
      else if s.busy then .next s
      else .next { s with toEngine := s.toEngine.regWrite (s.platform.offset a) v }

/-- The lanes a host register read of so many bytes returns (20_memory.md R61, R70): any width but four lanes reads 0. -/
def State.busLanes (s : State) (a : Addr) (bytes : Nat) : List Byte :=
  if bytes = 4 then lanesOf (s.regRead (s.platform.offset a)) else List.replicate bytes 0

/-- A host register read; it has no side effect on the core (20_memory.md R61, R73). -/
def busRead (a : Addr) (bytes : Nat) (s : State) : Host.Outcome State Fault Refusal :=
  .next { s with busReads := s.busReads ++ [s.busLanes a bytes] }

/-- The engine after the reset input (70_reset_and_hazards.md R300, R301): every state element of the core takes its reset value;
system memory, the platform and the environment's side of the ports stay (log entry 16). -/
def Engine.hwReset (c : Engine) : Engine :=
  { Engine.reset with mem := c.mem, platform := c.platform, ports := { c.ports with pullEnded := false } }

/-- The reset input: a command in progress is abandoned (70_reset_and_hazards.md R301). -/
def State.hwReset (s : State) : State :=
  { s with toEngine := s.toEngine.hwReset, busy := false, drop := false, running := none }

/-- The environment changes by `f`. A command in progress goes on: it is run again from where it was accepted, over the
answers it has had so far and the new one, which repeats every effect it has had and continues (40_bitreader.md
R125; log entry 5). -/
def deliver (f : Engine → Engine) (s : State) : Host.Outcome State Fault Refusal :=
  match s.running with
  | none => .next { s with toEngine := f s.toEngine }
  | some r => exec r.instr { s with toEngine := f r.start }

/-- One more answer to `PullByte` is ready. -/
def Engine.offerPull (c : Engine) (a : PullAnswer) : Engine :=
  { c with ports := { c.ports with pullQ := c.ports.pullQ ++ [a] } }

/-- One more pushed byte will be accepted. -/
def Engine.offerPush (c : Engine) : Engine := { c with ports := { c.ports with pushReady := c.ports.pushReady + 1 } }

/-- One more answer to `ReadDest` is ready. -/
def Engine.offerReadDest (c : Engine) (b : Byte) : Engine :=
  { c with ports := { c.ports with readDestQ := c.ports.readDestQ ++ [b] } }

/-- A byte of system memory written by the host; nothing is stored at an address the platform does not back
(log entry 15). -/
def Engine.hostStore (c : Engine) (a : Addr) (b : Byte) : Engine :=
  if c.platform.backs a then { c with mem := c.mem.write a.toNat b } else c

/-- A host write to system memory: refused in a stream's slice while a command runs (20_memory.md R77, 93_implementation_defined.md
U6), defined between commands (U8). -/
def hostMemWrite (a : Addr) (b : Byte) (s : State) : Host.Outcome State Fault Refusal :=
  if s.busy && s.latch.owns a then .refused (.sliceWriteWhileBusy a)
  else deliver (fun c => c.hostStore a b) s

/-- What happens at the ports and the reset input whatever the host's program is doing; `none` for an action of the program
itself (log entry 23). -/
def HostAction.besideProgram : HostAction → Option (State → Host.Outcome State Fault Refusal)
  | .reset => some fun s => .next s.hwReset
  | .pullAnswer p => some (deliver fun c => c.offerPull p)
  | .pushAccept => some (deliver fun c => c.offerPush)
  | .readDestAnswer b => some (deliver fun c => c.offerReadDest b)
  | .write _ _ | .read _ _ | .memWrite _ _ | .wait => none

/-- The first of the pending actions that is no action of the program, and the others. -/
def firstBesideProgram : List HostAction → Option ((State → Host.Outcome State Fault Refusal) × List HostAction)
  | [] => none
  | act :: rest =>
      match act.besideProgram with
      | some f => some (f, rest)
      | none => (firstBesideProgram rest).map fun p => (p.1, act :: p.2)

/-- The host's `wait`, the actions after it still pending in `s` (30_encoding.md R99, 70_reset_and_hazards.md R310). It is over when
`BUSY` = 0. Until then the program stands still and the host only answers ports or resets, as "while `BUSY` = 1 the host must
answer the ports" asks; with no such action pending the host goes on reading `STATUS`, which changes nothing (20_memory.md R61). -/
def hostWait (s : State) : Host.Outcome State Fault Refusal :=
  if s.busy then
    match firstBesideProgram s.hostq with
    | some (f, rest) => f { s with hostq := .wait :: rest }
    | none => .next { s with hostq := .wait :: s.hostq }
  else .next s

/-- One host action. -/
def hostAct (act : HostAction) (s : State) : Host.Outcome State Fault Refusal :=
  match act with
  | .write a lanes => busWrite a lanes s
  | .read a n => busRead a n s
  | .reset => .next s.hwReset
  | .memWrite a b => hostMemWrite a b s
  | .pullAnswer p => deliver (fun c => c.offerPull p) s
  | .pushAccept => deliver (fun c => c.offerPush) s
  | .readDestAnswer b => deliver (fun c => c.offerReadDest b) s
  | .wait => hostWait s

/-- The host's write of a command word to `CMD`. -/
def State.cmdAction (s : State) (w : Word) : HostAction :=
  .write (s.platform.mmioBase + BitVec.ofNat 32 cmdOffset) (lanesOf w)

end Sys2Proof.Machine
end

