-- ==== Sys2Proof/Machine/Step.lean ====
section
/-! DEFINITION. One step of the machine: the host's next action, with the command it starts or lets go on. Between
commands the core does nothing (60_exceptions.md R287), so with no action pending the state stays. -/

namespace Sys2Proof.Machine

/-- One step. -/
def step (s : State) : Host.Outcome State Fault Refusal :=
  match s.hostq with
  | [] => .next s
  | act :: rest => hostAct act { s with hostq := rest }

/-- The state in which the next step runs the command word `w`: no command is in progress and the host's next action writes the
word to `CMD` (log entry 2). -/
def State.withFetchWord (s : State) (nbits w : Nat) : State :=
  { s with busy := false, running := none, hostq := s.cmdAction (BitVec.ofNat 32 (w % 2 ^ nbits)) :: s.hostq }

end Sys2Proof.Machine
end

