-- ==== Sys2Proof/Machine/Asm.lean ====
section
/-! DEFINITION. The assembler syntax of commands and the host programs the pseudo-instructions stand for
(30_encoding.md R98 to R100). A host program is a list of host actions, with a `wait` after each command (30_encoding.md R100,
70_reset_and_hazards.md R310). -/

namespace Sys2Proof.Machine

/-- The spelling of a checksum kind (30_encoding.md R99). -/
def kindName (kind : BitVec 2) : String :=
  match kind.toNat with
  | 0 => "none"
  | 1 => "adler"
  | 2 => "crc"
  | _ => "3"

/-- The spelling of a tree slot (30_encoding.md R99). -/
def slotName (slot : BitVec 2) : String :=
  match slot.toNat with
  | 0 => "lt"
  | 1 => "dt"
  | 2 => "ct"
  | _ => "3"

/-- Decimal spelling of an operand (30_encoding.md R99). -/
def operandText {n : Nat} (v : BitVec n) : String := toString v.toNat

/-- The mnemonic and the operand spellings of a command, in the order of 30_encoding.md R99. -/
def asmParts : Instr → String × List String
  | .nop => ("nop", [])
  | .init => ("init", [])
  | .step cap => ("step", [operandText cap])
  | .getbits n => ("getbits", [operandText n])
  | .getbyte => ("getbyte", [])
  | .align => ("align", [])
  | .ckinit kind => ("ckinit", [kindName kind])
  | .ckset kind => ("ckset", [kindName kind])
  | .ckbyte b => ("ckbyte", [operandText b])
  | .lenw idx len => ("lenw", [operandText idx, operandText len])
  | .lenr idx => ("lenr", [operandText idx])
  | .build slot base num => ("build", [slotName slot, operandText base, operandText num])
  | .fixed => ("fixed", [])
  | .decode slot => ("decode", [slotName slot])
  | .put b => ("put", [operandText b])
  | .get dist => ("get", [operandText dist])
  | .copy len dist => ("copy", [operandText len, operandText dist])
  | .preload b => ("preload", [operandText b])

/-- One line of assembler (30_encoding.md R99). -/
def asm (i : Instr) : String :=
  match asmParts i with
  | (name, []) => name
  | (name, args) => name ++ " " ++ String.intercalate ", " args

/-- `wr REG, VALUE` at a register offset, for a window at `base` (30_encoding.md R99). -/
def wrReg (base : Addr) (off : Nat) (v : Word) : HostAction := .write (base + BitVec.ofNat 32 off) (lanesOf v)

/-- `rd REG` (30_encoding.md R99). -/
def rdReg (base : Addr) (off : Nat) : HostAction := .read (base + BitVec.ofNat 32 off) 4

/-- A command: the host writes its word to `CMD` (30_encoding.md R90). -/
def issue (base : Addr) (i : Instr) : HostAction := wrReg base cmdOffset (encode i)

/-- A command and the `wait` that follows it (70_reset_and_hazards.md R310). -/
def issueAndWait (base : Addr) (i : Instr) : List HostAction := [issue base i, .wait]

/-- `adler32 SEED, b0, ..., bk` (30_encoding.md R100): the answer is the read of `CKSUM`. -/
def pseudoAdler32 (base : Addr) (seed : Word) (bytes : List Byte) : List HostAction :=
  wrReg base 0x1C seed :: issueAndWait base (.ckset 1) ++ bytes.flatMap (fun b => issueAndWait base (.ckbyte b))
    ++ [rdReg base 0x2C]

/-- `crc32 STATE, b0, ..., bk` (30_encoding.md R100): the answer is the read of `CKSTATE`, the non-complemented state. -/
def pseudoCrc32 (base : Addr) (state : Word) (bytes : List Byte) : List HostAction :=
  wrReg base 0x1C state :: issueAndWait base (.ckset 2) ++ bytes.flatMap (fun b => issueAndWait base (.ckbyte b))
    ++ [rdReg base 0x30]

/-- `initdecoder CTRLV, CAP, d0, ..., dk` (30_encoding.md R100, 70_reset_and_hazards.md R305); `slices` gives the offsets and values
of the slice registers the mode needs, written before `init`. -/
def pseudoInitDecoder (base : Addr) (ctrl cap : Word) (slices : List (Nat × Word)) (dictionary : List Byte) :
    List HostAction :=
  wrReg base 0x04 ctrl :: wrReg base 0x08 cap :: slices.map (fun p => wrReg base p.1 p.2) ++ issueAndWait base .init
    ++ dictionary.flatMap (fun b => issueAndWait base (.preload b))

/-- `decodestep CAP`: `step CAP; wait; rd STATUS; rd RESULT` (30_encoding.md R100); the outcome is read from the two registers
(44_inflate.md R236). -/
def pseudoDecodeStep (base : Addr) (cap : BitVec 26) : List HostAction :=
  issueAndWait base (.step cap) ++ [rdReg base 0x24, rdReg base 0x28]

/-- `currentchecksum` (30_encoding.md R100). -/
def pseudoCurrentChecksum (base : Addr) : List HostAction := [rdReg base 0x2C]

end Sys2Proof.Machine
end

