-- ==== Sys2Proof/Safety.lean ====
section
/-! DEFINITION. What claims about the machine are stated in: the invariants of 10_state.md R42 and R43, the bits and bytes the
source can give, the bytes of history, the effect of one emitted byte, canonical codes, and the outcome of a
`STEP` as the source reads it (44_inflate.md R236). -/

namespace Sys2Proof.Machine

/-- The states in which an error of `STEP` has ended the stream (10_state.md R31, R42). -/
def PState.failed : PState → Bool
  | .dataError | .checksumError | .sourceExhausted => true
  | _ => false

/-- The states in which `STEP` runs the sequencer (44_inflate.md R224). -/
def PState.active : PState → Bool
  | .hdr | .stored | .huff | .copy | .trailer => true
  | _ => false

/-- The codes with which an action of the sequencer can end the stream (44_inflate.md R235): 1 to 10 and 13. -/
def Err.fromStep : Err → Bool
  | .none | .illegalCmd | .destFull | .noStream => false
  | _ => true

/-- What holds of the engine at every command boundary: 10_state.md R42, and the relations between the counters that follow from
the same rules (43_window.md R190, 40_bitreader.md R121). -/
structure Engine.Inv (c : Engine) : Prop where
  bitcnt_le : c.bitcnt.toNat ≤ 7
  bitacc_lt : c.bitacc.toNat < 2 ^ c.bitcnt.toNat
  ringCapReg_le : c.ringCapReg.toNat ≤ Config.ringMax
  ringCap_le : c.latch.ringCap.toNat ≤ Config.ringMax
  ringFill_le : c.ringFill.toNat ≤ c.latch.ringCap.toNat
  ringIdx_lt : c.latch.ringCap ≠ 0 → c.ringIdx.toNat < c.latch.ringCap.toNat
  ring_off : c.latch.ringCap = 0 → c.ringIdx = 0 ∧ c.ringFill = 0
  lzRem_le : c.lzRem.toNat ≤ 258
  copy_dist : c.pstate = .copy →
    1 ≤ c.lzDist.toNat ∧ c.lzDist.toNat ≤ Config.windowMax ∧ c.covered c.lzDist.toNat = true
  not_trailer : c.pstate ≠ .trailer
  streamErr_iff : c.streamErr ≠ .none ↔ c.pstate.failed = true
  streamErr_class : c.pstate.failed = true → c.pstate = c.streamErr.terminal ∧ c.streamErr.fromStep = true
  dstPos_le : c.latch.ctrl.dstRes = true → c.dstPos.toNat ≤ c.latch.dstLen.toNat
  dst_off : c.latch.ctrl.dstRes = false → c.dstPos = 0
  outSat_le : c.outSat.toNat ≤ Config.windowMax
  outSat_dst : c.latch.ctrl.dstRes = true → c.outSat.toNat = min c.dstPos.toNat Config.windowMax
  srcPos_le : c.latch.ctrl.srcPull = false → c.srcPos.toNat ≤ c.latch.srcLen.toNat

/-- The invariant of the machine: the engine's at every boundary, and at the acceptance of a command in progress. -/
structure State.Inv (s : State) : Prop where
  busy_iff : s.busy = true ↔ s.running.isSome = true
  boundary : s.busy = false → s.toEngine.Inv
  accepted : ∀ r, s.running = some r → r.start.Inv

/-- Every entry a rule can read has been written, unless a host program error reads it (70_reset_and_hazards.md R302,
93_implementation_defined.md U1). -/
structure Engine.Written (c : Engine) : Prop where
  counts : ∀ sl, (c.tree sl).valid = true → ∀ l, 1 ≤ l → l ≤ Config.maxBits → ((c.tree sl).count.read l).isSome = true
  symbols : ∀ sl, (c.tree sl).valid = true → ∀ i,
    i < ((List.range 16).tail.map fun l => (((c.tree sl).count.read l).getD 0).toNat).sum →
      ((c.tree sl).trans.read i).isSome = true
  ring : ∀ d, 1 ≤ d → d ≤ c.ringFill.toNat → (c.ring.read (c.ringPlace d)).isSome = true
  dst : c.latch.ctrl.dstRes = true → ∀ d, 1 ≤ d → d ≤ c.dstPos.toNat →
    c.platform.backs (c.latch.dstBase + c.dstPos - BitVec.ofNat 32 d) = true ∧
      (c.mem.read (c.latch.dstBase + c.dstPos - BitVec.ofNat 32 d).toNat).isSome = true

/-- History agreement (10_state.md R43): where the resident destination and the ring both cover a distance they hold the same
byte. -/
def Engine.HistoryAgrees (c : Engine) : Prop :=
  c.latch.ctrl.dstRes = true → ∀ d, 1 ≤ d → d ≤ c.dstPos.toNat → d ≤ c.ringFill.toNat →
    c.mem.read (c.latch.dstBase + c.dstPos - BitVec.ofNat 32 d).toNat = c.ring.read (c.ringPlace d)

/-- Every store of the engine is in canonical form. -/
def Engine.storesWf (c : Engine) : Bool :=
  Memory.wf c.mem && c.len.wf && c.ring.wf && c.lt.count.wf && c.lt.trans.wf && c.dt.count.wf && c.dt.trans.wf
    && c.ct.count.wf && c.ct.trans.wf

/-- Every store of the machine is in canonical form. -/
def State.storesWf (s : State) : Bool :=
  s.toEngine.storesWf && (match s.running with | none => true | some r => r.start.storesWf)

/-- The bits of a byte in the order the bit reader takes them (20_memory.md R67). -/
def byteBits (b : Byte) : List Bool := (List.range 8).map fun i => b.getLsbD i

/-- The bits held in the accumulator, next bit first (10_state.md R33). -/
def Engine.heldBits (c : Engine) : List Bool := (List.range c.bitcnt.toNat).map fun i => c.bitacc.getLsbD i

/-- The `n` bytes from an address, up to the first that is unbacked or has no value. -/
def residentBytes (p : Platform) (m : Memory) : (n : Nat) → (a : Addr) → List Byte
  | 0, _ => []
  | n + 1, a =>
      if p.backs a then
        match m.read a.toNat with
        | some b => b :: residentBytes p m n (a + 1)
        | none => []
      else []

/-- The bytes of the answers ready at the pull port, up to an `EOF`. -/
def offeredBytes : List PullAnswer → List Byte
  | .byte b :: rest => b :: offeredBytes rest
  | _ => []

/-- The bytes the source gives from here on without a wait, an error or a model fault (40_bitreader.md R121). -/
def Engine.sourceBytes (c : Engine) : List Byte :=
  if c.latch.ctrl.srcPull then (if c.ports.pullEnded then [] else offeredBytes c.ports.pullQ)
  else residentBytes c.platform c.mem (c.latch.srcLen - c.srcPos).toNat (c.latch.srcBase + c.srcPos)

/-- The bits the source gives from here on: those held, then those of the bytes to come (40_bitreader.md R122). -/
def Engine.sourceBits (c : Engine) : List Bool := c.heldBits ++ c.sourceBytes.flatMap byteBits

/-- The source ends after the bytes of `sourceBytes`: with the resident slice, or with an `EOF` that the host has ready
(40_bitreader.md R121, R124). -/
def Engine.sourceEnds (c : Engine) : Bool :=
  if c.latch.ctrl.srcPull then decide ((c.ports.pullQ.drop c.sourceBytes.length).head? = some .eof)
  else decide (c.sourceBytes.length = (c.latch.srcLen - c.srcPos).toNat)

/-- The engine after a read that took all bits of a source that ends and asked for one more (40_bitreader.md R124). -/
def Engine.drained (c : Engine) : Engine :=
  { c with
    bitacc := 0, bitcnt := 0
    srcPos := c.srcPos + BitVec.ofNat 32 c.sourceBytes.length
    ports :=
      if c.latch.ctrl.srcPull then
        { c.ports with
          pullQ := c.ports.pullQ.drop (c.sourceBytes.length + 1), pullEnded := true
          log := c.ports.log ++ c.sourceBytes.map (fun b => .pull (.byte b)) ++ [.pull .eof] }
      else c.ports }

/-- The bytes pushed in a list of handshakes. -/
def pushedBytes (log : List PortEvent) : List Byte :=
  log.filterMap fun e => match e with
    | .push b => some b
    | _ => none

/-- Whether the destinations take `n` more bytes without a wait and within the resident room (43_window.md R190, R199). -/
def Engine.accepts (c : Engine) (n : Nat) : Prop :=
  (c.latch.ctrl.dstRes = true → n ≤ c.room ∧
    ∀ k, k < n → c.platform.backs (c.latch.dstBase + c.dstPos + BitVec.ofNat 32 k) = true) ∧
  (c.latch.ctrl.dstPush = true → n ≤ c.ports.pushReady)

/-- The engine after one emitted byte that no destination makes wait (43_window.md R190, R191). -/
def Engine.emitted (c : Engine) (b : Byte) : Engine :=
  { c with
    mem := if c.latch.ctrl.dstRes then c.mem.write (c.latch.dstBase + c.dstPos).toNat b else c.mem
    dstPos := if c.latch.ctrl.dstRes then c.dstPos + 1 else c.dstPos
    ports :=
      if c.latch.ctrl.dstPush then
        { c.ports with pushReady := c.ports.pushReady - 1, log := c.ports.log ++ [.push b] }
      else c.ports
    ring := if c.latch.ringCap = 0 then c.ring else c.ring.write c.ringIdx.toNat b
    ringIdx :=
      if c.latch.ringCap = 0 then c.ringIdx
      else BitVec.ofNat 16 ((c.ringIdx.toNat + 1) % c.latch.ringCap.toNat)
    ringFill :=
      if c.latch.ringCap = 0 then c.ringFill
      else BitVec.ofNat 16 (min (c.ringFill.toNat + 1) c.latch.ringCap.toNat)
    ckState := c.ckKind.update c.ckState b
    outCount := c.outCount + 1
    outSat := BitVec.ofNat 16 (min (c.outSat.toNat + 1) 32768) }

/-- The history byte at a distance that the resident slice or the ring serves (43_window.md R194). -/
def Engine.histByte (c : Engine) (d : Nat) : Option Byte :=
  if c.latch.ctrl.dstRes && decide (d ≤ c.dstPos.toNat) then
    (if c.platform.backs (c.latch.dstBase + c.dstPos - BitVec.ofNat 32 d) then
      c.mem.read (c.latch.dstBase + c.dstPos - BitVec.ofNat 32 d).toNat
    else none)
  else if decide (c.latch.ringCap ≠ 0) && decide (d ≤ c.ringFill.toNat) then c.ring.read (c.ringPlace d)
  else none

/-- The `n` bytes a copy at distance `d` emits: the last `d` bytes of history, repeated (43_window.md R197). -/
def Engine.copyBytes (c : Engine) (d n : Nat) : List Byte :=
  (List.range n).map fun j => (c.histByte (d - j % d)).getD 0

/-- The number of symbols of length `l` (42_huffman.md R162). -/
def lengthCount (ls : List (BitVec 4)) (l : Nat) : Nat := ls.countP fun x => decide (x.toNat = l)

/-- `first[l]` of the canonical assignment (42_huffman.md R162), for `l` from 1. -/
def firstCode (ls : List (BitVec 4)) : Nat → Nat
  | 0 => 0
  | 1 => 0
  | l + 2 => 2 * (firstCode ls (l + 1) + lengthCount ls (l + 1))

/-- `base[l]` of the canonical assignment (42_huffman.md R162), for `l` from 1. -/
def baseIndex (ls : List (BitVec 4)) : Nat → Nat
  | 0 => 0
  | 1 => 0
  | l + 2 => baseIndex ls (l + 1) + lengthCount ls (l + 1)

/-- The rank of symbol `i` among the symbols of its length (42_huffman.md R162). -/
def lengthRank (ls : List (BitVec 4)) (i : Nat) : Nat := lengthCount (ls.take i) (ls.getD i 0).toNat

/-- The canonical code of symbol `i`, most significant bit first (42_huffman.md R162, 20_memory.md R68). -/
def codeBits (ls : List (BitVec 4)) (i : Nat) : List Bool :=
  (List.range (ls.getD i 0).toNat).map fun k =>
    (firstCode ls (ls.getD i 0).toNat + lengthRank ls i).testBit ((ls.getD i 0).toNat - 1 - k)

/-- The code space the lengths use, in units of one 15-bit code (42_huffman.md R163). -/
def kraftSum (ls : List (BitVec 4)) : Nat := ((List.range 16).tail.map fun l => lengthCount ls l * 2 ^ (15 - l)).sum

/-- The bits of a field in the order `GetBits` takes them (40_bitreader.md R123). -/
def fieldBits {n : Nat} (v : BitVec n) : List Bool := (List.range n).map fun i => v.getLsbD i

/-- One item of the length sequence of a dynamic header (44_inflate.md R228): a length, or a repeat with its field. -/
inductive LenItem where
  | length (v : BitVec 4)
  /-- Code 16: repeat the previous length 3 to 6 times. -/
  | again (field : BitVec 2)
  /-- Code 17: 3 to 10 zero lengths. -/
  | zeros (field : BitVec 3)
  /-- Code 18: 11 to 138 zero lengths. -/
  | manyZeros (field : BitVec 7)
  deriving DecidableEq, Repr

/-- The code-length symbol of an item. -/
def LenItem.symbol : LenItem → Nat
  | .length v => v.toNat
  | .again _ => 16
  | .zeros _ => 17
  | .manyZeros _ => 18

/-- The bits that spell an item: the canonical code of its symbol under the code-length lengths `cl`, then its field. -/
def LenItem.bits (cl : List (BitVec 4)) (item : LenItem) : List Bool :=
  codeBits cl item.symbol ++
    match item with
    | .length _ => []
    | .again field => fieldBits field
    | .zeros field => fieldBits field
    | .manyZeros field => fieldBits field

/-- The lengths after an item; `none` where there is no previous length to repeat. -/
def LenItem.extend (ls : List (BitVec 4)) : LenItem → Option (List (BitVec 4))
  | .length v => some (ls ++ [v])
  | .again field => ls.getLast?.map fun v => ls ++ List.replicate (3 + field.toNat) v
  | .zeros field => some (ls ++ List.replicate (3 + field.toNat) 0)
  | .manyZeros field => some (ls ++ List.replicate (11 + field.toNat) 0)

/-- The lengths that a sequence of items spells. -/
def LenItem.expand (items : List LenItem) : Option (List (BitVec 4)) := items.foldlM LenItem.extend []

/-- The commands that need a stream (60_exceptions.md R270, code 14). -/
def needsStream : Instr → Bool
  | .step _ | .getbits _ | .getbyte | .align | .decode _ | .put _ | .get _ | .copy _ _ | .preload _ => true
  | .nop | .init | .ckinit _ | .ckset _ | .ckbyte _ | .lenw _ _ | .lenr _ | .build _ _ _ | .fixed => false

/-- The command ended without error. -/
def State.ok (s : State) : Prop := s.busy = false ∧ s.err = .none

/-- Run commands one after another, each to completion without error. -/
inductive RunsTo : State → List Instr → State → Prop where
  | nil (s : State) : RunsTo s [] s
  | cons {s t u : State} {i : Instr} {rest : List Instr} (h : exec i s = .next t) (hok : t.ok) (hr : RunsTo t rest u) :
      RunsTo s (i :: rest) u

/-- The source's result of a `decodeStep` (44_inflate.md R236). -/
inductive StepResult where
  | ok (n : Nat)
  | done (n : Nat)
  | dataError
  | checksumError
  | sourceExhausted
  | noStream
  deriving DecidableEq, Repr

/-- The source's result read from `ERR`, `PSTATE` and `RESULT` after a completed `STEP` (44_inflate.md R236); `none` where
the table has no row. -/
def State.stepResult (s : State) : Option StepResult :=
  match s.err, s.pstate with
  | .none, .done => some (.done s.result.toNat)
  | .none, _ => some (.ok s.result.toNat)
  | .checksum, .checksumError => some .checksumError
  | .srcExhausted, .sourceExhausted => some .sourceExhausted
  | .noStream, .idle => some .noStream
  | .badBlockType, .dataError | .badStoredLen, .dataError | .badCounts, .dataError | .treeOversub, .dataError
  | .invalidCode, .dataError | .badRepeat, .dataError | .badSymbol, .dataError | .invalidDistance, .dataError
  | .treeNotBuilt, .dataError => some .dataError
  | _, _ => none

end Sys2Proof.Machine
end

