-- ==== Sys2Proof/Certificates/Slice0/Obligations.lean ====
section
/-! DEFINITION. The statements about the model, taken from the numbered rules of the spec. -/

open Sys2Proof
open Sys2Proof.Machine

/-! ### Encoding -/

/-- Words written out from 30_encoding.md R92 and R94 decode to the commands they stand for. -/
def Obligations.KnownWordsDecode : Prop :=
  decode 0x00000000#32 = .ok .nop ∧
  decode 0x04000000#32 = .ok .init ∧
  decode 0x080003E8#32 = .ok (.step 1000) ∧
  decode 0x20000007#32 = .ok (.getbits 7) ∧
  decode 0x44000002#32 = .ok (.ckset 2) ∧
  decode 0x60000405#32 = .ok (.lenw 5 2) ∧
  decode 0x68004120#32 = .ok (.build 0 32 288) ∧
  decode 0x70000001#32 = .ok (.decode 1) ∧
  decode 0x88050002#32 = .ok (.copy 5 2) ∧
  decode 0x8C000061#32 = .ok (.preload 0x61)

/-- Decoding the word of a well-formed command gives the command back, every operand at every legal value. -/
def Obligations.DecodeInvertsEncode : Prop :=
  ∀ i : Instr, i.wf = true → decode (encode i) = .ok i

/-- A word that decodes is the word of the command it decodes to, and that command is well formed: no bit is dropped. -/
def Obligations.EncodeInvertsDecode : Prop :=
  ∀ (w : Word) (i : Instr), decode w = .ok i → i.wf = true ∧ encode i = w

/-- The reserved opcodes are exactly those of 30_encoding.md R95. -/
def Obligations.ReservedOpcodesAreRejected : Prop :=
  ∀ w : Word, decode w = .error .reservedOpcode ↔
    ((0x03 ≤ (w.extractLsb' 26 6).toNat ∧ (w.extractLsb' 26 6).toNat ≤ 0x07) ∨
     (0x0B ≤ (w.extractLsb' 26 6).toNat ∧ (w.extractLsb' 26 6).toNat ≤ 0x0F) ∨
     (0x13 ≤ (w.extractLsb' 26 6).toNat ∧ (w.extractLsb' 26 6).toNat ≤ 0x17) ∨
     (0x1D ≤ (w.extractLsb' 26 6).toNat ∧ (w.extractLsb' 26 6).toNat ≤ 0x1F) ∨
     (0x24 ≤ (w.extractLsb' 26 6).toNat))

/-- A bit that the format of the opcode marks must-be-zero makes the word illegal, and writing the word to `CMD` changes
`ERR` and `RESULT` only, beside what accepting a command clears (30_encoding.md R93). -/
def Obligations.MustBeZeroBitIsIllegal : Prop :=
  ∀ (w : Word) (opc : BitVec 6) (mask : Word),
    (opc, mask) ∈ [(0x00#6, 0x03FFFFFF#32), (0x01#6, 0x03FFFFFF#32), (0x08#6, 0x03FFFFC0#32), (0x09#6, 0x03FFFFFF#32),
      (0x0A#6, 0x03FFFFFF#32), (0x10#6, 0x03FFFFFC#32), (0x11#6, 0x03FFFFFC#32), (0x12#6, 0x03FFFF00#32),
      (0x18#6, 0x03FFE000#32), (0x19#6, 0x03FFFE00#32), (0x1A#6, 0x03F00000#32), (0x1B#6, 0x03FFFFFF#32),
      (0x1C#6, 0x03FFFFFC#32), (0x20#6, 0x03FFFF00#32), (0x21#6, 0x03FF0000#32), (0x22#6, 0x02000000#32),
      (0x23#6, 0x03FFFF00#32)] →
    w.extractLsb' 26 6 = opc → w &&& mask ≠ 0 →
    decode w = .error .mustBeZero ∧
    ∀ (s : State) (rest : List HostAction), s.busy = false → s.hostq = s.cmdAction w :: rest →
      step s = .next { s with
        toEngine := { s.toEngine with err := .illegalCmd, result := 0 }
        busy := false, drop := false, running := none, hostq := rest }

/-! ### The host's side -/

/-- When the host's next action writes a word that decodes to a command, and no command is in progress, the step is that
command's `exec` on the accepted state: the action is taken from the list, `DROP` and `ERR` are cleared and `BUSY` is set. -/
def Obligations.StepRunsTheDecodedCommand : Prop :=
  ∀ (s : State) (w : Word) (i : Instr) (rest : List HostAction),
    s.busy = false → s.hostq = s.cmdAction w :: rest → decode w = .ok i →
    step s = exec i { s with
      toEngine := { s.toEngine with err := .none }
      busy := true, drop := false, hostq := rest }

/-- An illegal word changes nothing but `ERR` (11), `RESULT` (0), `DROP` (0) and `BUSY`, and a `PRELOAD` refused for its state is
treated the same way (60_exceptions.md R274). -/
def Obligations.IllegalCommandOnlyReports : Prop :=
  (∀ (s : State) (w : Word) (r : Reject) (rest : List HostAction),
    s.busy = false → s.hostq = s.cmdAction w :: rest → decode w = .error r →
    step s = .next { s with
      toEngine := { s.toEngine with err := .illegalCmd, result := 0 }
      busy := false, drop := false, running := none, hostq := rest }) ∧
  (∀ (s : State) (w : Word) (b : Byte) (rest : List HostAction),
    s.busy = false → s.hostq = s.cmdAction w :: rest → decode w = .ok (.preload b) → s.pstate ≠ .idle →
    (s.latch.ringCap = 0 ∨ s.pstate ≠ .hdr ∨ s.outSat ≠ 0) →
    step s = .next { s with
      toEngine := { s.toEngine with err := .illegalCmd, result := 0 }
      busy := false, drop := false, running := none, hostq := rest })

/-- The register window (20_memory.md R61), 256 bytes from `MMIO_BASE`: other widths, misaligned and unmapped offsets and read-only
registers ignore writes; while `BUSY` = 1 a write to an RW register is ignored and a write to `CMD` is dropped and sets `DROP`; a read changes
nothing in the core, an aligned 32-bit one of a mapped offset returns the register, and other widths, misaligned and unmapped
offsets read 0. The last clauses give what each read-only register, and `CMD`, reads (10_state.md
section 2, R22), and the lanes of an access, the low byte at the low address (R70). -/
def Obligations.RegisterWindowAccessRules : Prop :=
  (∀ (s : State) (a : Addr) (lanes : List Byte) (rest : List HostAction),
    s.hostq = .write a lanes :: rest → (a - s.platform.mmioBase).toNat < 0x100 →
    (lanes.length ≠ 4 ∨ (a - s.platform.mmioBase).toNat % 4 ≠ 0 ∨ (a - s.platform.mmioBase).toNat = 0 ∨
      0x24 ≤ (a - s.platform.mmioBase).toNat) →
    step s = .next { s with hostq := rest }) ∧
  (∀ (s : State) (off : Nat) (v : Word) (rest : List HostAction),
    s.hostq = wrReg s.platform.mmioBase off v :: rest → s.busy = true → off < 0x20 →
    step s = .next { s with hostq := rest }) ∧
  (∀ (s : State) (v : Word) (rest : List HostAction),
    s.hostq = wrReg s.platform.mmioBase 0x20 v :: rest → s.busy = true →
    step s = .next { s with hostq := rest, drop := true }) ∧
  (∀ (s : State) (a : Addr) (n : Nat) (rest : List HostAction),
    s.hostq = .read a n :: rest →
    ∃ v : List Byte, step s = .next { s with hostq := rest, busReads := s.busReads ++ [v] } ∧ v.length = n ∧
      ((a - s.platform.mmioBase).toNat < 0x100 →
        (n ≠ 4 ∨ (a - s.platform.mmioBase).toNat % 4 ≠ 0 ∨ 0x5C ≤ (a - s.platform.mmioBase).toNat) →
        v = List.replicate n 0) ∧
      (n = 4 → (a - s.platform.mmioBase).toNat % 4 = 0 → (a - s.platform.mmioBase).toNat < 0x5C →
        v = lanesOf (s.regRead (a - s.platform.mmioBase).toNat))) ∧
  (∀ s : State,
    s.regRead 0x00 = 0x555A0007#32 ∧ s.regRead 0x20 = 0 ∧ s.regRead 0x24 = s.statusWord ∧ s.regRead 0x28 = s.result ∧
    s.regRead 0x2C = (match s.ckKind with | .none => 0#32 | .adler => s.ckState | .crc => ~~~s.ckState) ∧
    s.regRead 0x30 = s.ckState ∧ s.regRead 0x34 = s.bitacc ∧ s.regRead 0x38 = s.srcPos ∧ s.regRead 0x3C = s.dstPos ∧
    s.regRead 0x40 = s.outCount ∧ (s.regRead 0x44).toNat = s.srem.toNat ∧
    (s.regRead 0x48).extractLsb' 0 16 = s.lzDist ∧ (s.regRead 0x48).extractLsb' 16 9 = s.lzRem ∧
    (s.regRead 0x48).extractLsb' 25 7 = 0 ∧
    (s.regRead 0x4C).toNat = s.ringIdx.toNat ∧ (s.regRead 0x50).toNat = s.ringFill.toNat ∧
    (s.regRead 0x54).toNat = s.outSat.toNat ∧
    ((s.regRead 0x58).extractLsb' 0 2).toNat = (match s.latch.ctrl.ckKind with | .none => 0 | .adler => 1 | .crc => 2) ∧
    (s.regRead 0x58).getLsbD 2 = s.latch.ctrl.dstRes ∧
    (s.regRead 0x58).getLsbD 3 = s.latch.ctrl.dstPush ∧ (s.regRead 0x58).getLsbD 4 = s.latch.ctrl.rdestEn ∧
    (s.regRead 0x58).getLsbD 5 = s.latch.ctrl.srcPull ∧ 
    ((s.regRead 0x58).extractLsb' 6 2).toNat = (match s.latch.ctrl.trailer with | .none => 0 | .zlib => 1 | .gzip => 2) ∧
    (s.regRead 0x58).extractLsb' 8 24 = 0) ∧
  (∀ (w : Word) (base : Addr) (off : Nat),
    lanesOf w = [w.extractLsb' 0 8, w.extractLsb' 8 8, w.extractLsb' 16 8, w.extractLsb' 24 8] ∧
    wrReg base off w = .write (base + BitVec.ofNat 32 off) (lanesOf w))

/-- What the RW registers store and read back, and that a write to one leaves everything else (10_state.md R22 to R25): `CTRL` keeps
its low byte with the reserved field values stored as 0 (1 is Adler-32 and zlib, 2 is CRC-32 and gzip), `RING_CAP` is cut to 32768, the others keep the value. -/
def Obligations.RegisterWritesReadBack : Prop :=
  ∀ (s : State) (v : Word) (rest : List HostAction), s.busy = false →
    (s.hostq = wrReg s.platform.mmioBase 0x04 v :: rest →
      ∃ t c, step s = .next t ∧ t = { s with hostq := rest, toEngine := { s.toEngine with ctrl := c } } ∧
        t.regRead 0x04 = (v &&& 0x3C#32) ||| (if v.extractLsb' 0 2 = 3 then 0#32 else v &&& 0x03#32)
          ||| (if v.extractLsb' 6 2 = 3 then 0#32 else v &&& 0xC0#32) ∧
        c = { ckKind := if v.extractLsb' 0 2 = 1 then .adler else if v.extractLsb' 0 2 = 2 then .crc else .none
              dstRes := v.getLsbD 2, dstPush := v.getLsbD 3, rdestEn := v.getLsbD 4, srcPull := v.getLsbD 5
              trailer := if v.extractLsb' 6 2 = 1 then .zlib else if v.extractLsb' 6 2 = 2 then .gzip else .none }) ∧
    (s.hostq = wrReg s.platform.mmioBase 0x08 v :: rest →
      ∃ t c, step s = .next t ∧ t = { s with hostq := rest, toEngine := { s.toEngine with ringCapReg := c } } ∧
        (t.regRead 0x08).toNat = min v.toNat 32768) ∧
    (s.hostq = wrReg s.platform.mmioBase 0x0C v :: rest →
      ∃ t, step s = .next t ∧ t = { s with hostq := rest, toEngine := { s.toEngine with srcBase := v } } ∧
        t.regRead 0x0C = v) ∧
    (s.hostq = wrReg s.platform.mmioBase 0x10 v :: rest →
      ∃ t, step s = .next t ∧ t = { s with hostq := rest, toEngine := { s.toEngine with srcLen := v } } ∧
        t.regRead 0x10 = v) ∧
    (s.hostq = wrReg s.platform.mmioBase 0x14 v :: rest →
      ∃ t, step s = .next t ∧ t = { s with hostq := rest, toEngine := { s.toEngine with dstBase := v } } ∧
        t.regRead 0x14 = v) ∧
    (s.hostq = wrReg s.platform.mmioBase 0x18 v :: rest →
      ∃ t, step s = .next t ∧ t = { s with hostq := rest, toEngine := { s.toEngine with dstLen := v } } ∧
        t.regRead 0x18 = v) ∧
    (s.hostq = wrReg s.platform.mmioBase 0x1C v :: rest →
      ∃ t, step s = .next t ∧ t = { s with hostq := rest, toEngine := { s.toEngine with data := v } } ∧
        t.regRead 0x1C = v)

/-- The fields of `STATUS` (10_state.md R28), with the numbers of the sequencer states (R31), of the errors (60_exceptions.md R270) and
of the checksum kinds (R34). -/
def Obligations.StatusShowsItsFields : Prop :=
  (∀ s : State,
    s.regRead 0x24 = s.statusWord ∧
    s.statusWord.getLsbD 0 = s.busy ∧
    s.statusWord.getLsbD 1 = s.drop ∧
    s.statusWord.extractLsb' 2 4 = s.pstate.code ∧
    s.statusWord.extractLsb' 6 4 = s.err.code ∧
    s.statusWord.getLsbD 10 = s.bfinal ∧
    s.statusWord.extractLsb' 11 2 = s.btype ∧
    s.statusWord.getLsbD 13 = s.lt.valid ∧
    s.statusWord.getLsbD 14 = s.dt.valid ∧
    s.statusWord.getLsbD 15 = s.ct.valid ∧
    s.statusWord.extractLsb' 16 5 = s.bitcnt ∧
    s.statusWord.extractLsb' 21 2 = s.ckKind.code ∧
    s.statusWord.extractLsb' 23 4 = s.streamErr.code ∧
    s.statusWord.extractLsb' 27 5 = 0) ∧
  (∀ p : PState, p.code.toNat = match p with
    | .idle => 0
    | .hdr => 1
    | .stored => 2
    | .huff => 3
    | .copy => 4
    | .trailer => 5
    | .done => 6
    | .dataError => 7
    | .checksumError => 8
    | .sourceExhausted => 9) ∧
  (∀ e : Err, e.code.toNat = match e with
    | .none => 0
    | .badBlockType => 1
    | .badStoredLen => 2
    | .badCounts => 3
    | .treeOversub => 4
    | .invalidCode => 5
    | .badRepeat => 6
    | .badSymbol => 7
    | .invalidDistance => 8
    | .checksum => 9
    | .srcExhausted => 10
    | .illegalCmd => 11
    | .destFull => 12
    | .treeNotBuilt => 13
    | .noStream => 14) ∧
  (∀ k : CkKind, k.code.toNat = match k with
    | .none => 0
    | .adler => 1
    | .crc => 2)

/-- The reset input, in any state and also while a command runs: every element of the core takes its "after reset" value, `STATUS`
reads 0, `ID` keeps its value, and system memory keeps the bytes already written (70_reset_and_hazards.md R300, R301). What
the environment's side of the ports keeps is the model's choice (log entry 16). -/
def Obligations.ResetInputRestoresResetValues : Prop :=
  ∀ (s : State) (rest : List HostAction), s.hostq = .reset :: rest →
    ∃ t : State, step s = .next t ∧ t.statusWord = 0 ∧ t.regRead 0 = 0x555A0007#32 ∧
      t = { toEngine :=
              { ctrl := ⟨.none, false, false, false, false, .none⟩, ringCapReg := 0
                srcBase := 0, srcLen := 0, dstBase := 0, dstLen := 0, data := 0, result := 0, err := .none
                pstate := .idle, streamErr := .none, bfinal := false, btype := 0, bitacc := 0, bitcnt := 0, srcPos := 0
                ckKind := .none, ckState := 0, len := []
                lt := ⟨false, [], []⟩, dt := ⟨false, [], []⟩, ct := ⟨false, [], []⟩
                ring := [], ringIdx := 0, ringFill := 0, dstPos := 0, outCount := 0, outSat := 0
                lzRem := 0, lzDist := 0, srem := 0
                latch := ⟨⟨.none, false, false, false, false, .none⟩, 0, 0, 0, 0, 0⟩
                mem := s.mem, platform := s.platform, ports := { s.ports with pullEnded := false } }
            busy := false, drop := false, running := none, hostq := rest, busReads := s.busReads }

/-! ### NOP and INIT -/

/-- `NOP` clears `ERR` and leaves `RESULT` and everything else (44_inflate.md R220). -/
def Obligations.NopOnlyClearsErr : Prop :=
  ∀ s : State, exec .nop s = .next { s with
    toEngine := { s.toEngine with err := .none }, busy := false, running := none }

/-- `INIT` latches the configuration, seeds the checksum and clears the stream, in every state; `LEN`, the trees and the ring
contents stay (44_inflate.md R222). The premise is 20_memory.md R64; clearing `pullEnded` is the model's bookkeeping
(log entry 11). -/
def Obligations.InitStartsAStream : Prop :=
  ∀ s : State, s.toEngine.hostConfig.overlaps = false →
    exec .init s = .next { s with
      toEngine := { s.toEngine with
        latch := ⟨s.ctrl, s.ringCapReg, s.srcBase, s.srcLen, s.dstBase, s.dstLen⟩
        ckKind := s.ctrl.ckKind
        ckState := (match s.ctrl.ckKind with | .none => 0#32 | .adler => 1#32 | .crc => 0xFFFFFFFF#32)
        bitacc := 0, bitcnt := 0, srcPos := 0, dstPos := 0, outCount := 0, outSat := 0
        ringIdx := 0, ringFill := 0, srem := 0, lzRem := 0, lzDist := 0, bfinal := false, btype := 0
        streamErr := .none, pstate := .hdr, err := .none, result := 0
        ports := { s.ports with pullEnded := false } }
      busy := false, running := none }

/-- The configuration `INIT` refuses is exactly the one whose resident slices, both in use, share an address
(20_memory.md R64). That only slices both in use count, that an empty one overlaps nothing, and that addresses are
compared modulo 2^32 is the model's reading of that rule (log entry 9). -/
def Obligations.InitRefusesSharedSlices : Prop :=
  ∀ s : State, exec .init s = .refused .overlappingSlices ↔
    (s.ctrl.srcPull = false ∧ s.ctrl.dstRes = true ∧
      ∃ a : Addr, (a - s.srcBase).toNat < s.srcLen.toNat ∧ (a - s.dstBase).toNat < s.dstLen.toNat)

/-! ### Checksums -/

/-- `CKINIT` and `CKSET`, in every state: the kind and its seed, or the kind and the running state from `DATA`, with the reported
form in `RESULT` (41_checksum.md R141, R142, R144, R145). -/
def Obligations.CkinitAndCksetLoadTheAccumulator : Prop :=
  ∀ (s : State) (k : BitVec 2), k ≠ 3 →
    exec (.ckinit k) s = .next { s with
      toEngine := { s.toEngine with
        ckKind := (if k = 0 then .none else if k = 1 then .adler else .crc)
        ckState := (if k = 0 then 0#32 else if k = 1 then 1#32 else 0xFFFFFFFF#32)
        result := (if k = 1 then 1#32 else 0#32)
        err := .none }
      busy := false, running := none } ∧
    exec (.ckset k) s = .next { s with
      toEngine := { s.toEngine with
        ckKind := (if k = 0 then .none else if k = 1 then .adler else .crc)
        ckState := (if k = 0 then 0#32 else s.data)
        result := (if k = 0 then 0#32 else if k = 1 then s.data else ~~~s.data)
        err := .none }
      busy := false, running := none }

/-- `CKBYTE`, in every state: nothing but the running state, `RESULT` and `ERR` changes, and the running state changes as
41_checksum.md R143 says: not at all for kind none, the two sums for Adler-32, eight reflected rounds for CRC-32. -/
def Obligations.CkbyteAccumulatesOneByte : Prop :=
  ∀ (s : State) (b : Byte), ∃ st : Word,
    exec (.ckbyte b) s = .next { s with
      toEngine := { s.toEngine with
        ckState := st
        result := (match s.ckKind with | .none => 0#32 | .adler => st | .crc => ~~~st)
        err := .none }
      busy := false, running := none } ∧
    (s.ckKind = .none → st = s.ckState) ∧
    (s.ckKind = .adler →
      st.toNat % 65536 = (s.ckState.toNat % 65536 + b.toNat) % 65521 ∧
      st.toNat / 65536 = (s.ckState.toNat / 65536 + (s.ckState.toNat % 65536 + b.toNat) % 65521) % 65521) ∧
    (s.ckKind = .crc →
      st = (List.range 8).foldl (fun c _ => if c.getLsbD 0 then (c >>> 1) ^^^ 0xEDB88320#32 else c >>> 1)
        (s.ckState ^^^ b.setWidth 32))

/-- Chunk invariance (41_checksum.md R148): accumulating a byte string in one run, and accumulating a first part, loading the state read
after it with `CKSET` and accumulating the rest, leave the same running state. Kind none has the running state 0 (R141). -/
def Obligations.ChecksumIgnoresChunking : Prop :=
  ∀ (k : BitVec 2) (s t u v w : State) (x y : List Byte), k ≠ 3 → s.ckKind.code = k →
    (k = 0 → s.ckState = 0) →
    RunsTo s ((x ++ y).map .ckbyte) t →
    RunsTo s (x.map .ckbyte) u →
    v.data = u.ckState →
    RunsTo v (.ckset k :: y.map .ckbyte) w →
    w.ckState = t.ckState ∧ w.ckKind = t.ckKind

/-- Reducing after every byte and reducing once at the end give the same Adler-32 state after at least one byte, for every
loaded state (41_checksum.md R149). -/
def Obligations.AdlerDeferredReductionAgrees : Prop :=
  ∀ (st : Word) (b : Byte) (bs : List Byte),
    let sums := (b :: bs).foldl (fun (p : Nat × Nat) x => (p.1 + x.toNat, p.2 + (p.1 + x.toNat)))
      (st.toNat % 65536, st.toNat / 65536)
    (b :: bs).foldl CkKind.adler.update st = BitVec.ofNat 16 (sums.2 % 65521) ++ BitVec.ofNat 16 (sums.1 % 65521)

/-- A byte-table CRC-32 and a nibble-table CRC-32 over the same polynomial compute the same running state as the bit-serial loop
(41_checksum.md R150). -/
def Obligations.CrcTablesAgree : Prop :=
  (∀ (table : Byte → Word), (∀ x : Byte, table x = crcRounds 8 (x.setWidth 32)) →
    ∀ (st : Word) (b : Byte),
      CkKind.crc.update st b = table ((st ^^^ b.setWidth 32).setWidth 8) ^^^ (st >>> 8)) ∧
  (∀ (table : BitVec 4 → Word), (∀ x : BitVec 4, table x = crcRounds 4 (x.setWidth 32)) →
    ∀ (st : Word) (b : Byte),
      let c := st ^^^ b.setWidth 32
      let d := table (c.setWidth 4) ^^^ (c >>> 4)
      CkKind.crc.update st b = table (d.setWidth 4) ^^^ (d >>> 4))

/-- The pseudo-instructions `adler32` and `crc32` return the state accumulated from the seed (30_encoding.md R100); the `wait` after each command is over at once, since none of these commands
waits on a port (log entry 3). -/
def Obligations.PseudoChecksumsReturnTheState : Prop :=
  ∀ (s : State) (seed : Word) (bs : List Byte), s.busy = false →
    (s.hostq = pseudoAdler32 s.platform.mmioBase seed bs →
      ∃ t : State, Sys2Proof.core.run (2 * bs.length + 4) s = .next t ∧ t.hostq = [] ∧ t.busy = false ∧
        t.busReads = s.busReads ++ [lanesOf (bs.foldl CkKind.adler.update seed)]) ∧
    (s.hostq = pseudoCrc32 s.platform.mmioBase seed bs →
      ∃ t : State, Sys2Proof.core.run (2 * bs.length + 4) s = .next t ∧ t.hostq = [] ∧ t.busy = false ∧
        t.busReads = s.busReads ++ [lanesOf (bs.foldl CkKind.crc.update seed)] ∧
        t.regRead 0x2C = ~~~(bs.foldl CkKind.crc.update seed))

/-! ### Bit reader -/

/-- `GETBITS n` and `GETBYTE` (n = 8) return the next `n` bits of the source, the first in bit 0, and take just those bits; nothing
else changes, and reading 0 bits touches no byte (40_bitreader.md R123, R127, R128). -/
def Obligations.GetbitsReturnsTheNextSourceBits : Prop :=
  ∀ (i : Instr) (n : Nat) (s : State),
    ((∃ k : BitVec 6, i = .getbits k ∧ k.toNat = n) ∨ (i = .getbyte ∧ n = 8)) → n ≤ 32 →
    s.pstate ≠ .idle → n ≤ s.toEngine.sourceBits.length →
    ∃ t : State, exec i s = .next t ∧ t.ok ∧
      (∀ k, t.result.getLsbD k = (decide (k < n) && s.toEngine.sourceBits.getD k false)) ∧
      t.toEngine.sourceBits = s.toEngine.sourceBits.drop n ∧
      t = { s with
        toEngine := { s.toEngine with
          bitacc := t.bitacc, bitcnt := t.bitcnt, srcPos := t.srcPos, result := t.result, err := .none
          ports := { s.ports with pullQ := t.ports.pullQ, log := t.ports.log } }
        busy := false, running := none } ∧
      (s.latch.ctrl.srcPull = false → t.ports = s.ports) ∧
      (n = 0 → t.bitacc = s.bitacc ∧ t.bitcnt = s.bitcnt ∧ t.srcPos = s.srcPos ∧ t.ports = s.ports)

/-- `ALIGN` discards the held bits and reads nothing (40_bitreader.md R126, R129). -/
def Obligations.AlignDiscardsTheHeldBits : Prop :=
  ∀ s : State, s.pstate ≠ .idle →
    exec .align s = .next { s with
      toEngine := { s.toEngine with bitacc := 0, bitcnt := 0, result := 0, err := .none }
      busy := false, running := none }

/-- When the source ends inside a `GETBITS` or a `GETBYTE` (n = 8, 40_bitreader.md R128), the bits taken are lost, `BITCNT` and `BITACC`
are 0, `SRC_POS` stops at the bytes fetched, `RESULT` is 0 and the stream stays as it is (R124, 60_exceptions.md R276): at the
end of the resident slice, and on `EOF` at the pull port. -/
def Obligations.GetbitsAtTheEndOfTheSource : Prop :=
  ∀ (i : Instr) (n : Nat) (s : State),
    ((∃ k : BitVec 6, i = .getbits k ∧ k.toNat = n) ∨ (i = .getbyte ∧ n = 8)) → n ≤ 32 → s.pstate ≠ .idle → s.toEngine.Inv →
    (s.latch.ctrl.srcPull = false → s.toEngine.sourceBytes.length = (s.latch.srcLen - s.srcPos).toNat →
      s.toEngine.sourceBits.length < n →
      exec i s = .next { s with
        toEngine := { s.toEngine with
          bitacc := 0, bitcnt := 0, srcPos := s.latch.srcLen, result := 0, err := .srcExhausted }
        busy := false, running := none }) ∧
    (∀ (bs : List Byte) (rest : List PullAnswer), s.latch.ctrl.srcPull = true → s.ports.pullEnded = false →
      s.ports.pullQ = bs.map .byte ++ .eof :: rest → s.bitcnt.toNat + 8 * bs.length < n →
      exec i s = .next { s with
        toEngine := { s.toEngine with
          bitacc := 0, bitcnt := 0, srcPos := s.srcPos + BitVec.ofNat 32 bs.length, result := 0, err := .srcExhausted
          ports := { s.ports with
            pullQ := rest, pullEnded := true
            log := s.ports.log ++ bs.map (fun b => .pull (.byte b)) ++ [.pull .eof] } }
        busy := false, running := none })

/-- Every command that needs a stream reports `NO_STREAM` in `IDLE` and changes nothing else but `RESULT`, before its own checks
(60_exceptions.md R275, 40_bitreader.md R130). That `STEP` too writes `RESULT` 0 is the model's reading (log entry 12). -/
def Obligations.CommandsWithoutAStreamReportIt : Prop :=
  ∀ (i : Instr) (s : State), needsStream i = true → i.wf = true → s.pstate = .idle →
    exec i s = .next { s with
      toEngine := { s.toEngine with err := .noStream, result := 0 }, busy := false, running := none }

/-! ### Huffman engine -/

/-- `LENW` writes one entry of `LEN` and the other entries read as before; `LENR` returns a written entry and changes nothing else;
an entry never written is a model fault (42_huffman.md R175, R176, 93_implementation_defined.md U1). -/
def Obligations.LenwWritesAndLenrReadsOneEntry : Prop :=
  ∀ (s : State) (idx : BitVec 9), idx.toNat < 320 →
    (∀ len : BitVec 4, ∃ l, exec (.lenw idx len) s = .next { s with
        toEngine := { s.toEngine with len := l, result := 0, err := .none }, busy := false, running := none } ∧
      ∀ k, l.read k = if k = idx.toNat then some len else s.len.read k) ∧
    (∀ v, s.len.read idx.toNat = some v →
      exec (.lenr idx) s = .next { s with
        toEngine := { s.toEngine with result := v.setWidth 32, err := .none }, busy := false, running := none }) ∧
    (s.len.read idx.toNat = none → exec (.lenr idx) s = .fault (.unwrittenLen idx.toNat))

/-- `BUILD` of written lengths: an over-subscribed array leaves the slot invalid with all counts 0 and raises `TREE_OVERSUB`
(42_huffman.md R166); any other makes the slot valid with the counts of the lengths and every symbol at its canonical place,
entries past them untouched (R162, R165). The other slots, `LEN` and everything else stay. A range with an entry never
written is a model fault at the first such entry (93_implementation_defined.md U1). Slots 0, 1 and 2 are `LT`, `DT` and `CT`. -/
def Obligations.BuildMakesTheCanonicalTables : Prop :=
  (∀ (s : State) (slot : BitVec 2) (base num : BitVec 9) (ls : List (BitVec 4)),
    (Instr.build slot base num).wf = true → ls.length = num.toNat →
    (∀ k, k < num.toNat → s.len.read (base.toNat + k) = ls[k]?) →
    ∃ tree : Tree,
      exec (.build slot base num) s = .next { s with
        toEngine := { s.toEngine.setTree (Slot.ofCode slot) tree with
          result := 0, err := if kraftSum ls > 2 ^ 15 then .treeOversub else .none }
        busy := false, running := none } ∧
      (kraftSum ls > 2 ^ 15 →
        tree.valid = false ∧ tree.trans = (s.toEngine.tree (Slot.ofCode slot)).trans ∧
        ∀ l, l < 16 → tree.count.read l = some 0) ∧
      (kraftSum ls ≤ 2 ^ 15 →
        tree.valid = true ∧ tree.count.read 0 = some 0 ∧
        (∀ l, 1 ≤ l → l ≤ 15 → (tree.count.read l).map BitVec.toNat = some (lengthCount ls l)) ∧
        (∀ i, i < ls.length → ls.getD i 0 ≠ 0 →
          (tree.trans.read (baseIndex ls (ls.getD i 0).toNat + lengthRank ls i)).map BitVec.toNat = some i) ∧
        (∀ k, baseIndex ls 16 ≤ k → tree.trans.read k = (s.toEngine.tree (Slot.ofCode slot)).trans.read k))) ∧
  (∀ (s : State) (slot : BitVec 2) (base num : BitVec 9) (j : Nat), (Instr.build slot base num).wf = true →
    j < num.toNat → (∀ k, k < j → (s.len.read (base.toNat + k)).isSome = true) → s.len.read (base.toNat + j) = none →
    exec (.build slot base num) s = .fault (.unwrittenLen (base.toNat + j))) ∧
  (∀ (c : Engine) (t : Tree),
    c.tree (Slot.ofCode 0) = c.lt ∧ c.tree (Slot.ofCode 1) = c.dt ∧ c.tree (Slot.ofCode 2) = c.ct ∧
    c.setTree (Slot.ofCode 0) t = { c with lt := t } ∧ c.setTree (Slot.ofCode 1) t = { c with dt := t } ∧
    c.setTree (Slot.ofCode 2) t = { c with ct := t })

/-- `FIXED` gives the tables of 42_huffman.md R169 in every state, and leaves `CT`, `LEN` and everything else. -/
def Obligations.FixedLoadsTheFixedTables : Prop :=
  ∀ s : State, ∃ lt dt : Tree,
    exec .fixed s = .next { s with
      toEngine := { s.toEngine with lt := lt, dt := dt, result := 0, err := .none }, busy := false, running := none } ∧
    lt.valid = true ∧ dt.valid = true ∧
    (∀ l, l < 16 → lt.count.read l = some (if l = 7 then 24 else if l = 8 then 152 else if l = 9 then 112 else 0)) ∧
    (∀ k, k < 24 → lt.trans.read k = some (BitVec.ofNat 9 (256 + k))) ∧
    (∀ k, k < 144 → lt.trans.read (24 + k) = some (BitVec.ofNat 9 k)) ∧
    (∀ k, k < 8 → lt.trans.read (168 + k) = some (BitVec.ofNat 9 (280 + k))) ∧
    (∀ k, k < 112 → lt.trans.read (176 + k) = some (BitVec.ofNat 9 (144 + k))) ∧
    (∀ l, l < 16 → dt.count.read l = some (if l = 5 then 30 else 0)) ∧
    (∀ k, k < 30 → dt.trans.read k = some (BitVec.ofNat 9 k))

/-- The canonical round trip (42_huffman.md R171, R174). `DECODE` from a slot built from a valid length array, on source bits that begin
with a symbol's code, returns the symbol, takes just the bits of the code and changes nothing else; and `BUILD` from `LEN`
followed by `DECODE` does the same. -/
def Obligations.DecodeReturnsTheSymbolOfItsCode : Prop :=
  ∀ (slot : BitVec 2) (ls : List (BitVec 4)) (i : Nat),
    slot ≠ 3 → ls.length ≤ 288 → kraftSum ls ≤ 2 ^ 15 → i < ls.length → ls.getD i 0 ≠ 0 →
    (∀ (t : State) (old : Tree), t.toEngine.tree (Slot.ofCode slot) = builtTree old ls → t.pstate ≠ .idle →
      codeBits ls i <+: t.toEngine.sourceBits →
      ∃ u : State, exec (.decode slot) t = .next u ∧ u.ok ∧ u.result.toNat = i ∧
        u.toEngine.sourceBits = t.toEngine.sourceBits.drop (ls.getD i 0).toNat ∧
        u = { t with
          toEngine := { t.toEngine with
            bitacc := u.bitacc, bitcnt := u.bitcnt, srcPos := u.srcPos, result := u.result, err := .none
            ports := { t.ports with pullQ := u.ports.pullQ, log := u.ports.log } }
          busy := false, running := none }) ∧
    (∀ (s : State) (base num : BitVec 9), (Instr.build slot base num).wf = true → ls.length = num.toNat →
      (∀ k, k < num.toNat → s.len.read (base.toNat + k) = ls[k]?) → s.pstate ≠ .idle →
      codeBits ls i <+: s.toEngine.sourceBits →
      ∃ t u : State, exec (.build slot base num) s = .next t ∧ t.ok ∧ exec (.decode slot) t = .next u ∧ u.ok ∧
        u.result.toNat = i ∧ u.toEngine.sourceBits = s.toEngine.sourceBits.drop (ls.getD i 0).toNat)

/-- The decode failures (42_huffman.md R164, R173, 40_bitreader.md R124): a slot that is not valid raises `TREE_NOT_BUILT` with no bit
read; `INVALID_CODE` comes after exactly 15 bits, and from a slot built from a valid length array, incomplete or empty ones among them, it
comes just when 15 bits are there and no symbol's code is at their front; a source that ends before a code is complete raises
`SRC_EXHAUSTED` with its last bits lost. -/
def Obligations.DecodeFailuresConsumeTheirBits : Prop :=
  ∀ (s : State) (slot : BitVec 2), slot ≠ 3 → s.pstate ≠ .idle →
    ((s.toEngine.tree (Slot.ofCode slot)).valid = false →
      exec (.decode slot) s = .next { s with
        toEngine := { s.toEngine with err := .treeNotBuilt, result := 0 }, busy := false, running := none }) ∧
    (∀ t : State, exec (.decode slot) s = .next t → t.err = .invalidCode →
      15 ≤ s.toEngine.sourceBits.length ∧ t.toEngine.sourceBits = s.toEngine.sourceBits.drop 15 ∧
      t.result = 0 ∧ t.busy = false ∧ t.pstate = s.pstate) ∧
    (∀ (old : Tree) (ls : List (BitVec 4)), s.toEngine.tree (Slot.ofCode slot) = builtTree old ls →
      ls.length ≤ 288 → kraftSum ls ≤ 2 ^ 15 →
      (∀ i, i < ls.length → ls.getD i 0 ≠ 0 → ¬ codeBits ls i <+: s.toEngine.sourceBits) →
      (15 ≤ s.toEngine.sourceBits.length →
        ∃ t : State, exec (.decode slot) s = .next t ∧ t.toEngine.sourceBits = s.toEngine.sourceBits.drop 15 ∧
          t = { s with
            toEngine := { s.toEngine with
              bitacc := t.bitacc, bitcnt := t.bitcnt, srcPos := t.srcPos, result := 0, err := .invalidCode
              ports := { s.ports with pullQ := t.ports.pullQ, log := t.ports.log } }
            busy := false, running := none }) ∧
      (s.toEngine.Inv → s.toEngine.sourceBits.length < 15 → s.toEngine.sourceEnds = true →
        exec (.decode slot) s = .next { s with
          toEngine := { s.toEngine.drained with result := 0, err := .srcExhausted }, busy := false, running := none }))

/-! ### Window -/

/-- `PUT`, when every destination takes the byte: the byte goes to the resident destination, the push port, the ring, the
checksum and the counters, and nothing else changes (43_window.md R190, R200). With the resident destination full it raises
`DEST_FULL` and does nothing else. -/
def Obligations.PutEmitsOneByte : Prop :=
  ∀ (s : State) (b : Byte), s.pstate ≠ .idle →
    (s.toEngine.accepts 1 →
      exec (.put b) s = .next { s with
        toEngine := { s.toEngine.emitted b with result := 0, err := .none }, busy := false, running := none }) ∧
    (s.latch.ctrl.dstRes = true → s.dstPos = s.latch.dstLen →
      exec (.put b) s = .next { s with
        toEngine := { s.toEngine with err := .destFull, result := 0 }, busy := false, running := none })

/-- `GET` of a covered distance returns the byte of the resident slice, else of the ring, else the host's answer to `ReadDest`
for the position `OUT_COUNT - d`, and changes nothing else (43_window.md R194, R201). -/
def Obligations.GetReturnsTheHistoryByte : Prop :=
  ∀ (s : State) (d : BitVec 16), s.pstate ≠ .idle → s.toEngine.covered d.toNat = true →
    (∀ b, s.toEngine.histByte d.toNat = some b →
      exec (.get d) s = .next { s with
        toEngine := { s.toEngine with result := b.setWidth 32, err := .none }, busy := false, running := none }) ∧
    (∀ b rest, (s.latch.ctrl.dstRes = true → s.dstPos.toNat < d.toNat) →
      (s.latch.ringCap = 0 ∨ s.ringFill.toNat < d.toNat) → s.ports.readDestQ = b :: rest →
      exec (.get d) s = .next { s with
        toEngine := { s.toEngine with
          result := b.setWidth 32, err := .none
          ports := { s.ports with
            readDestQ := rest
            log := s.ports.log ++ [.readDest (s.outCount - BitVec.ofNat 32 d.toNat) b] } }
        busy := false, running := none })

/-- A distance that no store covers, 0 and more than 32768 among them, makes `GET` and `COPY` raise `INVALID_DISTANCE`, and a `COPY`
longer than the room of the resident destination raises `DEST_FULL`; none of them does anything else (43_window.md R193, R199,
R202). -/
def Obligations.RefusedHistoryReadsDoNothing : Prop :=
  ∀ (s : State) (d : BitVec 16) (len : BitVec 9), s.pstate ≠ .idle →
    (¬ (1 ≤ d.toNat ∧ d.toNat ≤ 32768 ∧
      ((s.latch.ctrl.dstRes = true ∧ d.toNat ≤ s.dstPos.toNat) ∨
       (s.latch.ringCap ≠ 0 ∧ d.toNat ≤ s.ringFill.toNat) ∨
       (s.latch.ctrl.rdestEn = true ∧ d.toNat ≤ s.outSat.toNat))) →
      exec (.get d) s = .next { s with
        toEngine := { s.toEngine with err := .invalidDistance, result := 0 }, busy := false, running := none } ∧
      (len ≠ 0 → len.toNat ≤ 258 →
        exec (.copy len d) s = .next { s with
          toEngine := { s.toEngine with err := .invalidDistance, result := 0 }, busy := false, running := none })) ∧
    (len.toNat ≤ 258 → s.toEngine.covered d.toNat = true → s.latch.ctrl.dstRes = true →
      (s.latch.dstLen - s.dstPos).toNat < len.toNat →
      exec (.copy len d) s = .next { s with
        toEngine := { s.toEngine with err := .destFull, result := 0 }, busy := false, running := none })

/-- `COPY` from the resident slice or the ring emits the last `d` bytes of history, repeated to its length, and nothing else
changes (43_window.md R197, R202). -/
def Obligations.CopyRepeatsTheHistory : Prop :=
  ∀ (s : State) (len : BitVec 9) (d : BitVec 16), s.toEngine.Inv → s.pstate ≠ .idle →
    len ≠ 0 → len.toNat ≤ 258 → s.toEngine.covered d.toNat = true → s.toEngine.accepts len.toNat →
    (∀ j, j < len.toNat → j < d.toNat → (s.toEngine.histByte (d.toNat - j)).isSome = true) →
    exec (.copy len d) s = .next { s with
      toEngine := { (s.toEngine.copyBytes d.toNat len.toNat).foldl Engine.emitted s.toEngine with
        result := len.setWidth 32, err := .none }
      busy := false, running := none }

/-- `COPY` of a distance that neither the resident slice nor the ring reaches during the whole copy takes the host's answers, asks
for the positions `OUT_COUNT - d` as they stand at each byte, and emits the answers in order to every destination, each pushed, where
the push port is on, before the next is asked for (43_window.md R190, R194, R196). -/
def Obligations.CopyFromTheReadBackPort : Prop :=
  ∀ (s : State) (len : BitVec 9) (d : BitVec 16) (bs rest : List Byte), s.pstate ≠ .idle →
    len ≠ 0 → len.toNat ≤ 258 → bs.length = len.toNat → s.ports.readDestQ = bs ++ rest →
    s.toEngine.covered d.toNat = true → s.toEngine.accepts len.toNat →
    (s.latch.ctrl.dstRes = true → s.dstPos.toNat + len.toNat ≤ d.toNat) →
    (s.latch.ringCap = 0 ∨
      (s.ringFill.toNat < d.toNat ∧ (s.latch.ringCap.toNat < d.toNat ∨ s.ringFill.toNat + len.toNat ≤ d.toNat))) →
    exec (.copy len d) s = .next { s with
      toEngine := { bs.foldl Engine.emitted s.toEngine with
        result := len.setWidth 32, err := .none
        ports := { s.ports with
          readDestQ := rest
          pushReady := if s.latch.ctrl.dstPush then s.ports.pushReady - len.toNat else s.ports.pushReady
          log := s.ports.log ++ bs.zipIdx.flatMap fun p =>
            .readDest (s.outCount + BitVec.ofNat 32 p.2 - BitVec.ofNat 32 d.toNat) p.1
              :: (if s.latch.ctrl.dstPush then [.push p.1] else []) } }
      busy := false, running := none }

/-- A copy is one `GET` and one `PUT` per byte, each read after the previous write, whatever store serves the distance
(43_window.md R197). -/
def Obligations.CopyIsGetThenPutPerByte : Prop :=
  (∀ (s t u : State) (d : BitVec 16),
    exec (.get d) s = .next t → t.ok → exec (.put (t.result.setWidth 8)) t = .next u → u.ok →
    exec (.copy 1 d) s = .next { u with toEngine := { u.toEngine with result := 1 } }) ∧
  (∀ (s t u : State) (n : BitVec 9) (d : BitVec 16), n.toNat + 1 ≤ 258 →
    exec (.copy n d) s = .next t → t.ok → exec (.copy 1 d) t = .next u → u.ok →
    exec (.copy (n + 1) d) s = .next { u with toEngine := { u.toEngine with result := n.setWidth 32 + 1 } })

/-- `PRELOAD` before any output writes the byte into the ring and nowhere else (43_window.md R191, R192, R203). -/
def Obligations.PreloadEntersTheRingOnly : Prop :=
  ∀ (s : State) (b : Byte), s.latch.ringCap ≠ 0 → s.pstate = .hdr → s.outSat = 0 →
    ∃ r, exec (.preload b) s = .next { s with
        toEngine := { s.toEngine with
          ring := r
          ringIdx := BitVec.ofNat 16 ((s.ringIdx.toNat + 1) % s.latch.ringCap.toNat)
          ringFill := BitVec.ofNat 16 (min (s.ringFill.toNat + 1) s.latch.ringCap.toNat)
          result := 0, err := .none }
        busy := false, running := none } ∧
      ∀ k, r.read k = if k = s.ringIdx.toNat then some b else s.ring.read k

/-- Coverage is monotone (43_window.md R198): no command but `INIT` makes a covered distance uncovered, and `DST_POS`, `OUT_SAT` and
`RING_FILL` only grow, the last up to its capacity. -/
def Obligations.CoverageOnlyGrows : Prop :=
  ∀ (i : Instr) (s t : State) (d : Nat), i ≠ .init → s.toEngine.Inv → exec i s = .next t →
    (s.toEngine.covered d = true → t.toEngine.covered d = true) ∧
    s.dstPos.toNat ≤ t.dstPos.toNat ∧ s.outSat.toNat ≤ t.outSat.toNat ∧ s.ringFill.toNat ≤ t.ringFill.toNat ∧
    t.ringFill.toNat ≤ t.latch.ringCap.toNat

/-! ### The sequencer -/

/-- `STEP` on a finished stream returns 0 without error; on a failed stream it returns 0 and raises the stored code again; with no
budget it returns 0. In each case nothing else changes (44_inflate.md R224, R235, 60_exceptions.md R276). -/
def Obligations.StepOnAnEndedStreamOrWithNoBudget : Prop :=
  ∀ (s : State) (cap : BitVec 26),
    (s.pstate = .done → exec (.step cap) s = .next { s with
      toEngine := { s.toEngine with err := .none, result := 0 }, busy := false, running := none }) ∧
    (s.pstate.failed = true → exec (.step cap) s = .next { s with
      toEngine := { s.toEngine with err := s.streamErr, result := 0 }, busy := false, running := none }) ∧
    (s.pstate.active = true →
      (cap = 0 ∨ (s.latch.ctrl.dstRes = true ∧ s.latch.dstLen = s.dstPos)) →
      exec (.step cap) s = .next { s with
        toEngine := { s.toEngine with err := .none, result := 0 }, busy := false, running := none })

/-- Inside a stored block `STEP cap` emits the next `cap` source bytes (44_inflate.md R230): it completes, `RESULT` is `cap`,
`SREM` goes down by `cap`, every destination, the ring, the checksum and the counters take the bytes in order (43_window.md R190),
and nothing else changes. One byte is a `GETBITS 8` and a `PUT`, also where the host's own reads have left the reader unaligned. A
source that ends inside the block fails the stream with `SRC_EXHAUSTED` after the bytes it gave (R235, R239). With no byte left
the block ends (R233): the next block's header, the trailer, or the end of the stream. -/
def Obligations.StepCopiesStoredBytes : Prop :=
  (∀ (s : State) (cap : BitVec 26), s.toEngine.Inv → s.latch.overlaps = false → s.pstate = .stored → s.bitcnt = 0 →
    cap.toNat ≤ s.srem.toNat → cap.toNat ≤ s.toEngine.sourceBytes.length → s.toEngine.accepts cap.toNat →
    let bytes := s.toEngine.sourceBytes.take cap.toNat
    ∃ t : State, exec (.step cap) s = .next t ∧ t.ok ∧
      t = { s with
        toEngine := { bytes.foldl Engine.emitted s.toEngine with
          bitacc := if cap = 0 then s.bitacc else 0, bitcnt := 0
          srcPos := s.srcPos + BitVec.ofNat 32 cap.toNat
          srem := s.srem - BitVec.ofNat 16 cap.toNat
          result := cap.setWidth 32, err := .none
          ports := { s.ports with
            pullQ := if s.latch.ctrl.srcPull then s.ports.pullQ.drop cap.toNat else s.ports.pullQ
            pushReady := if s.latch.ctrl.dstPush then s.ports.pushReady - cap.toNat else s.ports.pushReady
            log := s.ports.log ++ bytes.flatMap fun b =>
              (if s.latch.ctrl.srcPull then [.pull (.byte b)] else [])
                ++ (if s.latch.ctrl.dstPush then [.push b] else []) } }
        busy := false, running := none } ∧
      t.pstate = .stored ∧ t.result.toNat = cap.toNat ∧ t.srem.toNat = s.srem.toNat - cap.toNat ∧
      t.toEngine.sourceBytes = s.toEngine.sourceBytes.drop cap.toNat ∧
      t.ckState = bytes.foldl s.ckKind.update s.ckState ∧
      t.outCount = s.outCount + BitVec.ofNat 32 cap.toNat ∧
      (s.latch.ctrl.dstRes = true →
        t.dstPos.toNat = s.dstPos.toNat + cap.toNat ∧
        ∀ k, k < cap.toNat →
          t.mem.read (s.latch.dstBase + s.dstPos + BitVec.ofNat 32 k).toNat = s.toEngine.sourceBytes[k]?) ∧
      (∀ a : Addr, ¬ (s.latch.ctrl.dstRes = true ∧ (a - (s.latch.dstBase + s.dstPos)).toNat < cap.toNat) →
        t.mem.read a.toNat = s.mem.read a.toNat) ∧
      (s.latch.ctrl.dstPush = true → pushedBytes t.ports.log = pushedBytes s.ports.log ++ bytes)) ∧
  (∀ (s : State) (cap : BitVec 26), s.toEngine.Inv → s.latch.overlaps = false → s.pstate = .stored → s.bitcnt = 0 →
    s.toEngine.sourceEnds = true →
    let bytes := s.toEngine.sourceBytes
    bytes.length < s.srem.toNat → bytes.length < s.toEngine.budget cap → s.toEngine.accepts bytes.length →
    exec (.step cap) s = .next { s with
      toEngine := { bytes.foldl Engine.emitted s.toEngine with
        bitacc := 0, bitcnt := 0
        srcPos := s.srcPos + BitVec.ofNat 32 bytes.length
        srem := s.srem - BitVec.ofNat 16 bytes.length
        pstate := .sourceExhausted, streamErr := .srcExhausted, err := .srcExhausted
        result := BitVec.ofNat 32 bytes.length
        ports := { s.ports with
          pullQ := if s.latch.ctrl.srcPull then s.ports.pullQ.drop (bytes.length + 1) else s.ports.pullQ
          pullEnded := s.latch.ctrl.srcPull || s.ports.pullEnded
          pushReady := if s.latch.ctrl.dstPush then s.ports.pushReady - bytes.length else s.ports.pushReady
          log := s.ports.log ++ (bytes.flatMap fun b =>
            (if s.latch.ctrl.srcPull then [.pull (.byte b)] else [])
              ++ (if s.latch.ctrl.dstPush then [.push b] else []))
            ++ (if s.latch.ctrl.srcPull then [.pull .eof] else []) } }
      busy := false, running := none }) ∧
  (∀ (s t : State) (cap : BitVec 26), s.pstate = .stored → s.srem ≠ 0 → exec (.getbits 8) s = .next t →
    (t.ok → ∀ u, exec (.put (t.result.setWidth 8)) t = .next u → u.ok →
      exec (.step 1) s = .next { u with toEngine := { u.toEngine with srem := s.srem - 1, result := 1 } }) ∧
    (s.toEngine.budget cap ≠ 0 → t.err = .srcExhausted →
      exec (.step cap) s = .next { t with toEngine := { t.toEngine with
        pstate := .sourceExhausted, streamErr := .srcExhausted, result := 0 } })) ∧
  (∀ (s : State) (cap : BitVec 26), s.pstate = .stored → s.srem = 0 → s.toEngine.budget cap ≠ 0 →
    (s.bfinal = false → ∀ w : State, w.busy = false →
      (exec (.step cap) s = .next w ↔
        exec (.step cap) { s with toEngine := { s.toEngine with pstate := .hdr } } = .next w)) ∧
    (s.bfinal = true → s.latch.ctrl.trailer = .none →
      exec (.step cap) s = .next { s with
        toEngine := { s.toEngine with pstate := .done, result := 0, err := .none }, busy := false, running := none }) ∧
    (s.bfinal = true → s.latch.ctrl.trailer ≠ .none → ∀ w : State, w.busy = false →
      (exec (.step cap) s = .next w ↔
        exec (.step cap) { s with toEngine := { s.toEngine with pstate := .trailer } } = .next w)))

/-- Inside a back-reference `STEP n`, for `n` up to the bytes left, has the effect of `COPY n` at the held distance, and
takes `n` from `LZ_REM`; with no byte left `STEP` goes on with the next symbol, in `HUFF` (44_inflate.md R232). -/
def Obligations.StepInCopyStateIsCopy : Prop :=
  (∀ (s u : State) (n : BitVec 9) (cap : BitVec 26), s.pstate = .copy → n.toNat ≤ s.lzRem.toNat → cap.toNat = n.toNat →
    exec (.copy n s.lzDist) s = .next u → u.ok →
    exec (.step cap) s = .next { u with toEngine := { u.toEngine with lzRem := s.lzRem - n } }) ∧
  (∀ (s w : State) (cap : BitVec 26), s.pstate = .copy → s.lzRem = 0 → s.toEngine.budget cap ≠ 0 → w.busy = false →
    (exec (.step cap) s = .next w ↔
      exec (.step cap) { s with toEngine := { s.toEngine with pstate := .huff } } = .next w))

/-- What the sequencer does with a decoded literal/length symbol that is no length (44_inflate.md R231, R233): a literal is emitted as
by `PUT`; the end-of-block symbol leads to the next block's header, or in the final block to the trailer where one is configured and
else ends the stream; 286 and 287 fail it. A symbol that cannot be decoded fails it with the error of the `DECODE`: `TREE_NOT_BUILT`,
`INVALID_CODE` or `SRC_EXHAUSTED` (R235, R239). -/
def Obligations.StepActsOnTheDecodedSymbol : Prop :=
  ∀ (s t : State) (cap : BitVec 26), s.pstate = .huff → exec (.decode 0) s = .next t → t.busy = false →
    (s.toEngine.budget cap ≠ 0 → t.err ≠ .none →
      exec (.step cap) s = .next { t with toEngine := { t.toEngine with
        pstate := (if t.err = .srcExhausted then .sourceExhausted else .dataError), streamErr := t.err, result := 0 } }) ∧
    (t.ok → ∀ u, t.result.toNat < 256 → exec (.put (t.result.setWidth 8)) t = .next u → u.ok →
      exec (.step 1) s = .next { u with toEngine := { u.toEngine with result := 1 } }) ∧
    (t.ok → s.toEngine.budget cap ≠ 0 → t.result.toNat = 256 →
      (s.bfinal = false → ∀ w : State, w.busy = false →
        (exec (.step cap) s = .next w ↔
          exec (.step cap) { t with toEngine := { t.toEngine with pstate := .hdr } } = .next w)) ∧
      (s.bfinal = true → s.latch.ctrl.trailer = .none →
        exec (.step cap) s = .next { t with toEngine := { t.toEngine with pstate := .done, result := 0 } }) ∧
      (s.bfinal = true → s.latch.ctrl.trailer ≠ .none → ∀ w : State, w.busy = false →
        (exec (.step cap) s = .next w ↔
          exec (.step cap) { t with toEngine := { t.toEngine with pstate := .trailer } } = .next w))) ∧
    (t.ok → s.toEngine.budget cap ≠ 0 → 286 ≤ t.result.toNat →
      exec (.step cap) s = .next { t with toEngine := { t.toEngine with
        pstate := .dataError, streamErr := .badSymbol, err := .badSymbol, result := 0 } })

/-- What the sequencer does with a length symbol (44_inflate.md R229, R231): it reads the extra bits, the distance symbol and its extra
bits as the host-level commands would; distance symbols 30 and 31 fail the stream with `BAD_SYMBOL`; with a covered distance it goes
on from the copy context, with an uncovered one the stream fails with `INVALID_DISTANCE`. A read on the way that fails ends the stream
with its error (R235, R239). The four tables are R229's. -/
def Obligations.StepResolvesALengthSymbol : Prop :=
  let baseOfLen : List Nat := [3, 4, 5, 6, 7, 8, 9, 10, 11, 13, 15, 17, 19, 23, 27, 31, 35, 43, 51, 59, 67, 83, 99, 115,
    131, 163, 195, 227, 258]
  let extraOfLen : List Nat := [0, 0, 0, 0, 0, 0, 0, 0, 1, 1, 1, 1, 2, 2, 2, 2, 3, 3, 3, 3, 4, 4, 4, 4, 5, 5, 5, 5, 0]
  let baseOfDist : List Nat := [1, 2, 3, 4, 5, 7, 9, 13, 17, 25, 33, 49, 65, 97, 129, 193, 257, 385, 513, 769, 1025, 1537,
    2049, 3073, 4097, 6145, 8193, 12289, 16385, 24577]
  let extraOfDist : List Nat := [0, 0, 0, 0, 1, 1, 2, 2, 3, 3, 4, 4, 5, 5, 6, 6, 7, 7, 8, 8, 9, 9, 10, 10, 11, 11, 12, 12,
    13, 13]
  let failed (u : State) : State := { u with toEngine := { u.toEngine with
    pstate := (if u.err = .srcExhausted then .sourceExhausted else .dataError), streamErr := u.err, result := 0 } }
  ∀ (s t₁ t₂ : State) (cap : BitVec 26) (i : Nat), s.pstate = .huff → s.toEngine.budget cap ≠ 0 →
    exec (.decode 0) s = .next t₁ → t₁.ok → t₁.result.toNat = 257 + i → i ≤ 28 →
    exec (.getbits (BitVec.ofNat 6 (extraOfLen.getD i 0))) t₁ = .next t₂ → t₂.busy = false →
    (t₂.err ≠ .none → exec (.step cap) s = .next (failed t₂)) ∧
    (t₂.ok → ∀ t₃ : State, exec (.decode 1) t₂ = .next t₃ → t₃.busy = false →
      (t₃.err ≠ .none → exec (.step cap) s = .next (failed t₃)) ∧
      (t₃.ok → 30 ≤ t₃.result.toNat →
        exec (.step cap) s = .next { t₃ with toEngine := { t₃.toEngine with
          pstate := .dataError, streamErr := .badSymbol, err := .badSymbol, result := 0 } }) ∧
      (∀ t₄ : State, t₃.ok → t₃.result.toNat < 30 →
        exec (.getbits (BitVec.ofNat 6 (extraOfDist.getD t₃.result.toNat 0))) t₃ = .next t₄ → t₄.busy = false →
        let dist := baseOfDist.getD t₃.result.toNat 0 + t₄.result.toNat
        let v : State := { t₄ with toEngine := { t₄.toEngine with
          lzRem := BitVec.ofNat 9 (baseOfLen.getD i 0 + t₂.result.toNat), lzDist := BitVec.ofNat 16 dist, pstate := .copy } }
        (t₄.err ≠ .none → exec (.step cap) s = .next (failed t₄)) ∧
        (t₄.ok → t₄.toEngine.covered dist = true →
          ∀ w : State, w.busy = false → (exec (.step cap) s = .next w ↔ exec (.step cap) v = .next w)) ∧
        (t₄.ok → t₄.toEngine.covered dist = false →
          exec (.step cap) s = .next { t₄ with toEngine := { t₄.toEngine with
            pstate := .dataError, streamErr := .invalidDistance, err := .invalidDistance, result := 0 } })))

/-- What the sequencer does with a block header (44_inflate.md R226, R227): type 3 fails the stream and stays in `BTYPE`; type 1 loads
the fixed trees; type 2 runs `DynamicHeader` and goes on in `HUFF`, or fails with the error that it raises (R228); type 0 realigns,
reads `LEN` and `NLEN` and goes on in `STORED`, or fails on a mismatch. A source that ends inside the three header bits or inside
`LEN` and `NLEN` fails the stream with `SRC_EXHAUSTED`, the fields read before it kept (R235, R239). -/
def Obligations.StepReadsTheBlockHeader : Prop :=
  let ended (u : State) : State := { u with toEngine := { u.toEngine with
    pstate := .sourceExhausted, streamErr := .srcExhausted, result := 0 } }
  ∀ (s t₁ : State) (cap : BitVec 26), s.pstate = .hdr → s.toEngine.budget cap ≠ 0 → exec (.getbits 1) s = .next t₁ →
    (t₁.err = .srcExhausted → exec (.step cap) s = .next (ended t₁)) ∧
    (t₁.ok → ∀ t₂ : State, exec (.getbits 2) t₁ = .next t₂ →
      let h : State := { t₂ with toEngine := { t₂.toEngine with
        bfinal := t₁.result.getLsbD 0, btype := t₂.result.setWidth 2 } }
      (t₂.err = .srcExhausted →
        exec (.step cap) s = .next (ended { t₂ with toEngine := { t₂.toEngine with bfinal := t₁.result.getLsbD 0 } })) ∧
      (t₂.ok → t₂.result = 3 → exec (.step cap) s = .next { h with toEngine := { h.toEngine with
        pstate := .dataError, streamErr := .badBlockType, err := .badBlockType, result := 0 } }) ∧
      (t₂.ok → t₂.result = 1 → ∀ f, exec .fixed h = .next f → ∀ w : State, w.busy = false →
        (exec (.step cap) s = .next w ↔
          exec (.step cap) { f with toEngine := { f.toEngine with pstate := .huff } } = .next w)) ∧
      (t₂.ok → t₂.result = 2 →
        (∀ c : Engine, dynamicHeader.run h.toEngine = .ok () c → ∀ w : State, w.busy = false →
          (exec (.step cap) s = .next w ↔
            exec (.step cap) { h with toEngine := { c with pstate := .huff } } = .next w)) ∧
        (∀ (e : Err) (c : Engine), dynamicHeader.run h.toEngine = .error (.raise e) c →
          exec (.step cap) s = .next { h with toEngine := { c with
            pstate := (if e = .srcExhausted then .sourceExhausted else .dataError)
            streamErr := e, err := e, result := 0 } })) ∧
      (t₂.ok → t₂.result = 0 → ∀ a l : State, exec .align h = .next a → exec (.getbits 16) a = .next l →
        (l.err = .srcExhausted → exec (.step cap) s = .next (ended l)) ∧
        (l.ok → ∀ nl : State, exec (.getbits 16) l = .next nl →
          (nl.err = .srcExhausted → exec (.step cap) s = .next (ended nl)) ∧
          (nl.ok → nl.result = l.result ^^^ 0xFFFF#32 → ∀ w : State, w.busy = false →
            (exec (.step cap) s = .next w ↔
              exec (.step cap) { nl with toEngine := { nl.toEngine with
                srem := l.result.setWidth 16, pstate := .stored } } = .next w)) ∧
          (nl.ok → nl.result ≠ l.result ^^^ 0xFFFF#32 →
            exec (.step cap) s = .next { nl with toEngine := { nl.toEngine with
              pstate := .dataError, streamErr := .badStoredLen, err := .badStoredLen, result := 0 } }))))

/-- The dynamic block header (44_inflate.md R228). Whenever it is read without error it leaves `LT` and `DT` built from the code lengths
it left in `LEN`, with counts in the bounds and `CT` valid, and emits nothing. On source bits that spell a header (the three counts,
the 3-bit lengths of the code-length codes in the order `PERM`, and the items of the two length arrays, each the canonical code of its
symbol and its repeat field), it is read without error to just those lengths and takes just those bits; counts out of bounds raise
`BAD_COUNTS`, a repeat of nothing or past the last length raises `BAD_REPEAT`, an over-subscribed array raises `TREE_OVERSUB`, bits that
begin with no code raise `INVALID_CODE`, and a source that ends inside the header raises `SRC_EXHAUSTED`. -/
def Obligations.DynamicHeaderBuildsTheTreesFromLen : Prop :=
  (∀ c c' : Engine, dynamicHeader.run c = .ok () c' →
    ∃ (ll dl : List (BitVec 4)),
      257 ≤ ll.length ∧ ll.length ≤ 286 ∧ 1 ≤ dl.length ∧ dl.length ≤ 30 ∧
      (∀ k, k < ll.length → c'.len.read k = ll[k]?) ∧
      (∀ k, k < dl.length → c'.len.read (ll.length + k) = dl[k]?) ∧
      kraftSum ll ≤ 2 ^ 15 ∧ kraftSum dl ≤ 2 ^ 15 ∧
      c'.lt = builtTree c.lt ll ∧ c'.dt = builtTree c.dt dl ∧ c'.ct.valid = true ∧
      c' = { c with
        bitacc := c'.bitacc, bitcnt := c'.bitcnt, srcPos := c'.srcPos, len := c'.len, lt := c'.lt, dt := c'.dt, ct := c'.ct
        ports := { c.ports with pullQ := c'.ports.pullQ, log := c'.ports.log } }) ∧
  (∀ (c : Engine) (hlit hdist : BitVec 5) (hclen : BitVec 4),
    fieldBits hlit ++ fieldBits hdist ++ fieldBits hclen <+: c.sourceBits →
    (286 < hlit.toNat + 257 ∨ 30 < hdist.toNat + 1) →
    ∃ c', dynamicHeader.run c = .error (.raise .badCounts) c' ∧ c'.sourceBits = c.sourceBits.drop 14 ∧ c'.len = c.len) ∧
  (∀ (c : Engine) (hlit hdist : BitVec 5) (hclen : BitVec 4) (sent : List (BitVec 3)) (items : List LenItem)
      (ls : List (BitVec 4)),
    let perm : List Nat := [16, 17, 18, 0, 8, 7, 9, 6, 10, 5, 11, 4, 12, 3, 13, 2, 14, 1, 15]
    let cl : List (BitVec 4) := (List.range 19).map fun j => (sent.getD (perm.idxOf j) 0).setWidth 4
    let front := fieldBits hlit ++ fieldBits hdist ++ fieldBits hclen ++ sent.flatMap fieldBits
      ++ items.flatMap (LenItem.bits cl)
    hlit.toNat + 257 ≤ 286 → hdist.toNat + 1 ≤ 30 → sent.length = hclen.toNat + 4 → kraftSum cl ≤ 2 ^ 15 →
    (∀ item ∈ items, cl.getD item.symbol 0 ≠ 0) → LenItem.expand items = some ls →
    (ls.length = hlit.toNat + 257 + (hdist.toNat + 1) → front <+: c.sourceBits →
      kraftSum (ls.take (hlit.toNat + 257)) ≤ 2 ^ 15 → kraftSum (ls.drop (hlit.toNat + 257)) ≤ 2 ^ 15 →
      ∃ c', dynamicHeader.run c = .ok () c' ∧
        (∀ k, k < ls.length → c'.len.read k = ls[k]?) ∧
        c'.lt = builtTree c.lt (ls.take (hlit.toNat + 257)) ∧ c'.dt = builtTree c.dt (ls.drop (hlit.toNat + 257)) ∧
        c'.ct = builtTree c.ct cl ∧ c'.sourceBits = c.sourceBits.drop front.length) ∧
    (∀ item : LenItem, cl.getD item.symbol 0 ≠ 0 → ls.length < hlit.toNat + 257 + (hdist.toNat + 1) →
      (match item.extend ls with
        | none => True
        | some more => hlit.toNat + 257 + (hdist.toNat + 1) < more.length) →
      front ++ item.bits cl <+: c.sourceBits →
      ∃ c', dynamicHeader.run c = .error (.raise .badRepeat) c' ∧ c'.lt = c.lt ∧ c'.dt = c.dt) ∧
    (ls.length < hlit.toNat + 257 + (hdist.toNat + 1) → front <+: c.sourceBits →
      15 ≤ (c.sourceBits.drop front.length).length →
      (∀ j, j < 19 → cl.getD j 0 ≠ 0 → ¬ codeBits cl j <+: c.sourceBits.drop front.length) →
      ∃ c', dynamicHeader.run c = .error (.raise .invalidCode) c' ∧ c'.lt = c.lt ∧ c'.dt = c.dt ∧
        c'.sourceBits = c.sourceBits.drop (front.length + 15)) ∧
    (ls.length = hlit.toNat + 257 + (hdist.toNat + 1) → front <+: c.sourceBits →
      (2 ^ 15 < kraftSum (ls.take (hlit.toNat + 257)) →
        ∃ c', dynamicHeader.run c = .error (.raise .treeOversub) c' ∧ c'.lt.valid = false ∧ c'.dt = c.dt) ∧
      (kraftSum (ls.take (hlit.toNat + 257)) ≤ 2 ^ 15 → 2 ^ 15 < kraftSum (ls.drop (hlit.toNat + 257)) →
        ∃ c', dynamicHeader.run c = .error (.raise .treeOversub) c' ∧
          c'.lt = builtTree c.lt (ls.take (hlit.toNat + 257)) ∧ c'.dt.valid = false)) ∧
    (ls.length ≤ hlit.toNat + 257 + (hdist.toNat + 1) → c.sourceBits <+: front → c.sourceBits ≠ front → c.sourceEnds = true →
      ∃ c', dynamicHeader.run c = .error (.raise .srcExhausted) c' ∧ c'.lt = c.lt ∧ c'.dt = c.dt)) ∧
  (∀ (c : Engine) (hlit hdist : BitVec 5) (hclen : BitVec 4) (sent : List (BitVec 3)),
    let perm : List Nat := [16, 17, 18, 0, 8, 7, 9, 6, 10, 5, 11, 4, 12, 3, 13, 2, 14, 1, 15]
    let cl : List (BitVec 4) := (List.range 19).map fun j => (sent.getD (perm.idxOf j) 0).setWidth 4
    hlit.toNat + 257 ≤ 286 → hdist.toNat + 1 ≤ 30 → sent.length = hclen.toNat + 4 → 2 ^ 15 < kraftSum cl →
    fieldBits hlit ++ fieldBits hdist ++ fieldBits hclen ++ sent.flatMap fieldBits <+: c.sourceBits →
    ∃ c', dynamicHeader.run c = .error (.raise .treeOversub) c' ∧ c'.ct.valid = false ∧ c'.lt = c.lt ∧ c'.dt = c.dt)

/-- The trailer (44_inflate.md R234, 20_memory.md R69), from the end of the final block of a stream with a trailer, stored or coded:
after realigning, 4 bytes are read for zlib and 8 for gzip; a checksum that differs, big-endian Adler-32 or little-endian CRC-32 and
only of the matching kind, fails the stream with `CHECKSUM`; otherwise the stream is done. Bits that the source does not have fail
it with `SRC_EXHAUSTED`. `e` is the state at the end of the block. -/
def Obligations.StepChecksTheTrailer : Prop :=
  ∀ (s e a t : State) (cap : BitVec 26),
    ((s.pstate = .stored ∧ s.srem = 0 ∧ e = s) ∨
      (s.pstate = .huff ∧ exec (.decode 0) s = .next e ∧ e.ok ∧ e.result.toNat = 256)) →
    s.bfinal = true → s.toEngine.budget cap ≠ 0 →
    exec .align e = .next a → exec (.getbits 32) a = .next t →
    let done (u : State) : State := { u with toEngine := { u.toEngine with pstate := .done, result := 0 } }
    let failed (u : State) : State := { u with toEngine := { u.toEngine with
      pstate := .checksumError, streamErr := .checksum, err := .checksum, result := 0 } }
    let ended (u : State) : State := { u with toEngine := { u.toEngine with
      pstate := .sourceExhausted, streamErr := .srcExhausted, err := .srcExhausted, result := 0 } }
    (s.latch.ctrl.trailer ≠ .none → t.err = .srcExhausted → exec (.step cap) s = .next (ended t)) ∧
    (s.latch.ctrl.trailer = .zlib → t.ok →
      let v := t.result.extractLsb' 0 8 ++ t.result.extractLsb' 8 8 ++ t.result.extractLsb' 16 8
        ++ t.result.extractLsb' 24 8
      exec (.step cap) s = .next (if s.ckKind = .adler ∧ v ≠ s.ckState then failed t else done t)) ∧
    (s.latch.ctrl.trailer = .gzip → t.ok → ∀ u, exec (.getbits 32) t = .next u →
      (u.err = .srcExhausted → exec (.step cap) s = .next (ended u)) ∧
      (u.ok → exec (.step cap) s = .next (if s.ckKind = .crc ∧ t.result ≠ ~~~s.ckState then failed u else done u)))

/-- Suspend and resume (44_inflate.md R238): a `STEP a` that completes without error, then a `STEP b`, leave what one `STEP (a + b)`
leaves, and the byte counts add up; whether the second ends in success or in an error. -/
def Obligations.StepSplitsAtAnyBudget : Prop :=
  ∀ (a b : BitVec 26) (s t u : State), a.toNat + b.toNat < 2 ^ 26 →
    exec (.step a) s = .next t → t.ok → exec (.step b) t = .next u → u.busy = false →
    exec (.step (a + b)) s = .next { u with toEngine := { u.toEngine with result := t.result + u.result } }

/-- A completed `STEP` reports how many bytes it emitted, never more than its operand or the resident room (44_inflate.md R224,
60_exceptions.md R273). -/
def Obligations.StepResultCountsTheEmittedBytes : Prop :=
  ∀ (cap : BitVec 26) (s t : State), exec (.step cap) s = .next t → t.busy = false →
    t.result.toNat ≤ cap.toNat ∧
    (s.latch.ctrl.dstRes = true → t.result.toNat ≤ (s.latch.dstLen - s.dstPos).toNat) ∧
    t.outCount = s.outCount + t.result ∧
    t.dstPos = (if s.latch.ctrl.dstRes then s.dstPos + t.result else s.dstPos) ∧
    (s.latch.ctrl.dstPush = true →
      (pushedBytes t.ports.log).length = (pushedBytes s.ports.log).length + t.result.toNat)

/-- After a completed `STEP` the table of 44_inflate.md R236 has a row: `ERR`, `PSTATE` and `RESULT` name one of the source's
results. The host program `decodestep` (30_encoding.md R100) reads `STATUS` and `RESULT` as the completed `STEP` left them, also
when the `STEP` waits once and an answer or reset pending behind the program ends the wait: that this action goes before the
program's reads is the model's choice (log entry 23). -/
def Obligations.StepOutcomeIsInTheTable : Prop :=
  (∀ (cap : BitVec 26) (s t : State), s.toEngine.Inv → exec (.step cap) s = .next t → t.busy = false →
    t.stepResult = some
      (if t.err = .none then (if t.pstate = .done then .done t.result.toNat else .ok t.result.toNat)
       else if t.err = .noStream then .noStream
       else if t.err = .checksum then .checksumError
       else if t.err = .srcExhausted then .sourceExhausted
       else .dataError)) ∧
  (∀ (cap : BitVec 26) (s t : State) (rest : List HostAction), s.busy = false →
    s.hostq = pseudoDecodeStep s.platform.mmioBase cap ++ rest →
    exec (.step cap) { s with
      toEngine := { s.toEngine with err := .none }
      busy := true, drop := false, hostq := (pseudoDecodeStep s.platform.mmioBase cap).tail ++ rest } = .next t →
    (t.busy = false →
      Sys2Proof.core.run 4 s = .next { t with
        hostq := rest, busReads := s.busReads ++ [lanesOf t.statusWord, lanesOf t.result] }) ∧
    (∀ (act : HostAction) (others : List HostAction) (f : State → Host.Outcome State Fault Refusal) (u : State),
      t.busy = true → rest = act :: others → act.besideProgram = some f →
      f { t with hostq := (pseudoDecodeStep s.platform.mmioBase cap).tail ++ others } = .next u → u.busy = false →
      Sys2Proof.core.run 5 s = .next { u with
        hostq := others, busReads := s.busReads ++ [lanesOf u.statusWord, lanesOf u.result] }))

/-- No command uses up the bound on the passes of the `STEP` loop, in any state: every command ends, waits or stops for a reason of
the spec (log entry 13). -/
def Obligations.StepLoopNeverReachesItsBound : Prop :=
  ∀ (i : Instr) (s : State), exec i s ≠ .fault .loopBound

/-! ### Whole-machine rules -/

/-- Which commands write which unit's state (10_state.md R32 to R38): everything else leaves it, whether the command completes, fails
or waits. -/
def Obligations.CommandsWriteOnlyTheirUnits : Prop :=
  ∀ (i : Instr) (s t : State), exec i s = .next t →
    (t.ctrl = s.ctrl ∧ t.ringCapReg = s.ringCapReg ∧ t.srcBase = s.srcBase ∧ t.srcLen = s.srcLen ∧ t.dstBase = s.dstBase ∧
      t.dstLen = s.dstLen ∧ t.data = s.data ∧ t.platform = s.platform ∧ t.drop = s.drop ∧ t.hostq = s.hostq ∧
      t.busReads = s.busReads) ∧
    (i ≠ .init → t.latch = s.latch) ∧
    (i ≠ .init → (∀ cap, i ≠ .step cap) →
      t.pstate = s.pstate ∧ t.streamErr = s.streamErr ∧ t.bfinal = s.bfinal ∧ t.btype = s.btype ∧ t.srem = s.srem ∧
      t.lzRem = s.lzRem ∧ t.lzDist = s.lzDist) ∧
    ((∀ cap, i ≠ .step cap) → (∀ sl b n, i ≠ .build sl b n) → i ≠ .fixed →
      t.lt = s.lt ∧ t.dt = s.dt ∧ t.ct = s.ct) ∧
    ((∀ cap, i ≠ .step cap) → (∀ x y, i ≠ .lenw x y) → t.len = s.len) ∧
    (i ≠ .init → i ≠ .getbyte → i ≠ .align → (∀ cap, i ≠ .step cap) → (∀ n, i ≠ .getbits n) → (∀ sl, i ≠ .decode sl) →
      t.bitacc = s.bitacc ∧ t.bitcnt = s.bitcnt ∧ t.srcPos = s.srcPos) ∧
    (i ≠ .init → (∀ cap, i ≠ .step cap) → (∀ b, i ≠ .put b) → (∀ n d, i ≠ .copy n d) →
      t.mem = s.mem ∧ t.dstPos = s.dstPos ∧ t.outCount = s.outCount ∧ t.outSat = s.outSat ∧
      ((∀ b, i ≠ .preload b) → t.ring = s.ring ∧ t.ringIdx = s.ringIdx ∧ t.ringFill = s.ringFill) ∧
      ((∀ k, i ≠ .ckinit k) → (∀ k, i ≠ .ckset k) → (∀ b, i ≠ .ckbyte b) →
        t.ckKind = s.ckKind ∧ t.ckState = s.ckState)) ∧
    (i = .init → t.mem = s.mem ∧ t.ring = s.ring)

/-- Every byte of system memory that a command does not store to is unchanged (20_memory.md R62): the only bytes stored to are the
resident destination bytes from `L_DST_BASE + DST_POS` on, as many as `DST_POS` advances. This covers `PUT`, `COPY` and
`STEP`, complete or waiting; a command that advances nothing stores nothing. -/
def Obligations.CommandsStoreOnlyAtTheDestinationCursor : Prop :=
  ∀ (i : Instr) (s t : State), i ≠ .init → exec i s = .next t →
    (∀ a : Addr, ¬ (a - (s.latch.dstBase + s.dstPos)).toNat < (t.dstPos - s.dstPos).toNat →
      t.mem.read a.toNat = s.mem.read a.toNat) ∧
    (s.latch.ctrl.dstRes = false → t.dstPos = s.dstPos) ∧
    (t.ok → (∀ b, i = .put b → s.latch.ctrl.dstRes = true → t.dstPos = s.dstPos + 1 ∧
        t.mem.read (s.latch.dstBase + s.dstPos).toNat = some b) ∧
      (∀ n d, i = .copy n d → s.latch.ctrl.dstRes = true → t.dstPos = s.dstPos + n.setWidth 32))

/-- The checksum is updated exactly once per emitted byte, in write order, and by nothing else (41_checksum.md R147): seen through the
push port, for every completed command but those that select or feed the accumulator themselves. -/
def Obligations.ChecksumCoversExactlyThePushedBytes : Prop :=
  ∀ (i : Instr) (s t : State), i ≠ .init → (∀ k, i ≠ .ckinit k) → (∀ k, i ≠ .ckset k) → (∀ b, i ≠ .ckbyte b) →
    s.latch.ctrl.dstPush = true → exec i s = .next t → t.busy = false →
    ∃ bs : List Byte, pushedBytes t.ports.log = pushedBytes s.ports.log ++ bs ∧
      t.ckKind = s.ckKind ∧ t.ckState = bs.foldl s.ckKind.update s.ckState

/-! ### Invariants -/

/-- The invariants hold right after reset. -/
def Obligations.InvariantsHoldAtReset : Prop :=
  State.reset.Inv ∧ State.reset.storesWf = true ∧ State.reset.toEngine.Written ∧ State.reset.toEngine.HistoryAgrees

/-- Every step keeps the boundary invariant of 10_state.md R42. -/
def Obligations.StepKeepsTheBoundaryInvariant : Prop :=
  ∀ s t : State, s.Inv → step s = .next t → t.Inv

/-- Every step keeps every store, system memory among them, in canonical form. -/
def Obligations.StepKeepsStoresCanonical : Prop :=
  ∀ s t : State, s.storesWf = true → step s = .next t → t.storesWf = true

/-- No rule reads an entry never written (70_reset_and_hazards.md R302, 93_implementation_defined.md U1): from a boundary state, a
command keeps that so, and faults only when `LENR` or `BUILD` names an unwritten `LEN` entry or when the source slice holds a
byte the memory argument does not give. -/
def Obligations.CommandsReadOnlyWrittenEntries : Prop :=
  ∀ (i : Instr) (s : State), s.toEngine.Inv → s.toEngine.Written →
    (∀ t, exec i s = .next t → t.busy = false → t.toEngine.Written) ∧
    (∀ f, exec i s = .fault f →
      (∃ idx, f = .unwrittenLen idx ∧ s.len.read idx = none ∧
        (i = .lenr (BitVec.ofNat 9 idx) ∨
          ∃ sl base num, i = .build sl base num ∧ base.toNat ≤ idx ∧ idx < base.toNat + num.toNat)) ∨
      (∃ a, f = .unwrittenMem a ∧ s.latch.ctrl.srcPull = false ∧
        (a - s.latch.srcBase).toNat < s.latch.srcLen.toNat))

/-- History agreement (10_state.md R43): a completed command keeps the resident destination and the ring in agreement wherever both
cover a distance. -/
def Obligations.CommandsKeepHistoryAgreement : Prop :=
  ∀ (i : Instr) (s t : State), s.toEngine.Inv → s.toEngine.HistoryAgrees → exec i s = .next t → t.busy = false →
    t.toEngine.HistoryAgrees

/-! ### Waiting -/

/-- A command that meets a port the host has not answered, or an address the platform does not back, keeps `BUSY` at 1
(40_bitreader.md R125, 20_memory.md R63, 60_exceptions.md R288): a `GETBITS` at the pull port and at the resident source, a `PUT` at
the resident destination with nothing written and at the push port after its resident write, and a `GET` at the readDest port. While
`BUSY` is 1 and no answer comes the host's `wait` does not end (30_encoding.md R99). What the model keeps of the command in
progress is its own field (log entry 5). -/
def Obligations.UnansweredPortsAndUnbackedAddressesKeepBusy : Prop :=
  (∀ s : State, s.pstate ≠ .idle →
    (∀ n : BitVec 6, n ≠ 0 → n.toNat ≤ 32 → s.bitcnt = 0 →
      (s.latch.ctrl.srcPull = true → s.ports.pullQ = [] →
        exec (.getbits n) s = .next { s with
          toEngine := { s.toEngine with err := .none }, busy := true
          running := some ⟨.getbits n, { s.toEngine with err := .none }, .pull⟩ }) ∧
      (s.latch.ctrl.srcPull = false → s.srcPos ≠ s.latch.srcLen →
        s.platform.backs (s.latch.srcBase + s.srcPos) = false →
        exec (.getbits n) s = .next { s with
          toEngine := { s.toEngine with err := .none }, busy := true
          running := some ⟨.getbits n, { s.toEngine with err := .none }, .unbacked (s.latch.srcBase + s.srcPos)⟩ })) ∧
    (∀ b : Byte, (s.latch.ctrl.dstRes = true → s.dstPos ≠ s.latch.dstLen) →
      (s.latch.ctrl.dstRes = true → s.platform.backs (s.latch.dstBase + s.dstPos) = false →
        exec (.put b) s = .next { s with
          toEngine := { s.toEngine with err := .none }, busy := true
          running := some ⟨.put b, { s.toEngine with err := .none }, .unbacked (s.latch.dstBase + s.dstPos)⟩ }) ∧
      (s.latch.ctrl.dstPush = true → s.ports.pushReady = 0 →
        (s.latch.ctrl.dstRes = true → s.platform.backs (s.latch.dstBase + s.dstPos) = true) →
        exec (.put b) s = .next { s with
          toEngine := { s.toEngine with
            err := .none
            mem := if s.latch.ctrl.dstRes then s.mem.write (s.latch.dstBase + s.dstPos).toNat b else s.mem
            dstPos := if s.latch.ctrl.dstRes then s.dstPos + 1 else s.dstPos }
          busy := true, running := some ⟨.put b, { s.toEngine with err := .none }, .push b⟩ })) ∧
    (∀ d : BitVec 16, s.toEngine.covered d.toNat = true → (s.latch.ctrl.dstRes = true → s.dstPos.toNat < d.toNat) →
      (s.latch.ringCap = 0 ∨ s.ringFill.toNat < d.toNat) → s.ports.readDestQ = [] →
      exec (.get d) s = .next { s with
        toEngine := { s.toEngine with err := .none }, busy := true
        running := some ⟨.get d, { s.toEngine with err := .none },
          .readDest (s.outCount - BitVec.ofNat 32 d.toNat)⟩ })) ∧
  (∀ (s : State) (rest : List HostAction), s.busy = true → s.hostq = .wait :: rest →
    (∀ act ∈ rest, act.besideProgram = none) → step s = .next s)

/-- A command that waited and then had its answer ends as if the answer had been ready before it began (40_bitreader.md R125). The
host's `wait` lets the next answer, or a reset, go before the program's own actions, and is over when `BUSY` is 0 (30_encoding.md
R99, 70_reset_and_hazards.md R310). How the model resumes a command, and what passes a `wait`, are log entries 5 and 23. -/
def Obligations.AnswerAfterAWaitEqualsAnswerBefore : Prop :=
  (∀ (i : Instr) (s t : State), exec i s = .next t → t.busy = true →
    (∀ p, deliver (fun c => c.offerPull p) t = exec i { s with toEngine := s.toEngine.offerPull p }) ∧
    deliver (fun c => c.offerPush) t = exec i { s with toEngine := s.toEngine.offerPush } ∧
    (∀ b, deliver (fun c => c.offerReadDest b) t = exec i { s with toEngine := s.toEngine.offerReadDest b })) ∧
  (∀ (s : State) (before after : List HostAction),
    (∀ act ∈ before, act.besideProgram = none) → s.busy = true →
    (∀ p, s.hostq = .wait :: before ++ .pullAnswer p :: after →
      step s = deliver (fun c => c.offerPull p) { s with hostq := .wait :: before ++ after }) ∧
    (s.hostq = .wait :: before ++ .pushAccept :: after →
      step s = deliver (fun c => c.offerPush) { s with hostq := .wait :: before ++ after }) ∧
    (∀ b, s.hostq = .wait :: before ++ .readDestAnswer b :: after →
      step s = deliver (fun c => c.offerReadDest b) { s with hostq := .wait :: before ++ after }) ∧
    (s.hostq = .wait :: before ++ .reset :: after →
      step s = hostAct .reset { s with hostq := .wait :: before ++ after })) ∧
  (∀ (s : State) (rest : List HostAction), s.busy = false → s.hostq = .wait :: rest →
    step s = .next { s with hostq := rest })

/-- Going on after a wait withdraws nothing (20_memory.md R76, 60_exceptions.md R287): the handshakes made before the wait stand, in
order, in front of those made after it, and no byte stored before the wait changes. That a command is resumed by running it again is the model's way (log entry 5). -/
def Obligations.ResumingKeepsEveryEarlierEffect : Prop :=
  ∀ (i : Instr) (s t u : State) (f : Engine → Engine), exec i s = .next t → t.busy = true →
    ((∃ p, f = fun c => c.offerPull p) ∨ f = (fun c => c.offerPush) ∨ (∃ b, f = fun c => c.offerReadDest b)) →
    deliver f t = .next u →
    t.ports.log <+: u.ports.log ∧
    ∀ a : Addr, ¬ (a - (t.latch.dstBase + t.dstPos)).toNat < (u.dstPos - t.dstPos).toNat →
      u.mem.read a.toNat = t.mem.read a.toNat
end

