-- ==== Sys2Proof/Laws/State.lean ====
section
/-! SUPPORT. What each update of the state leaves in each field, every one true by `rfl`. -/

namespace Sys2Proof.Machine

/-! ### `Engine.takeError`: 60_exceptions.md R272 -/

@[simp] theorem Engine.takeError_ctrl (c : Engine) (e : Err) : (c.takeError e).ctrl = c.ctrl := rfl
@[simp] theorem Engine.takeError_ringCapReg (c : Engine) (e : Err) : (c.takeError e).ringCapReg = c.ringCapReg := rfl
@[simp] theorem Engine.takeError_srcBase (c : Engine) (e : Err) : (c.takeError e).srcBase = c.srcBase := rfl
@[simp] theorem Engine.takeError_srcLen (c : Engine) (e : Err) : (c.takeError e).srcLen = c.srcLen := rfl
@[simp] theorem Engine.takeError_dstBase (c : Engine) (e : Err) : (c.takeError e).dstBase = c.dstBase := rfl
@[simp] theorem Engine.takeError_dstLen (c : Engine) (e : Err) : (c.takeError e).dstLen = c.dstLen := rfl
@[simp] theorem Engine.takeError_data (c : Engine) (e : Err) : (c.takeError e).data = c.data := rfl
@[simp] theorem Engine.takeError_result (c : Engine) (e : Err) : (c.takeError e).result = 0 := rfl
@[simp] theorem Engine.takeError_err (c : Engine) (e : Err) : (c.takeError e).err = e := rfl
@[simp] theorem Engine.takeError_pstate (c : Engine) (e : Err) : (c.takeError e).pstate = c.pstate := rfl
@[simp] theorem Engine.takeError_streamErr (c : Engine) (e : Err) : (c.takeError e).streamErr = c.streamErr := rfl
@[simp] theorem Engine.takeError_bfinal (c : Engine) (e : Err) : (c.takeError e).bfinal = c.bfinal := rfl
@[simp] theorem Engine.takeError_btype (c : Engine) (e : Err) : (c.takeError e).btype = c.btype := rfl
@[simp] theorem Engine.takeError_bitacc (c : Engine) (e : Err) : (c.takeError e).bitacc = c.bitacc := rfl
@[simp] theorem Engine.takeError_bitcnt (c : Engine) (e : Err) : (c.takeError e).bitcnt = c.bitcnt := rfl
@[simp] theorem Engine.takeError_srcPos (c : Engine) (e : Err) : (c.takeError e).srcPos = c.srcPos := rfl
@[simp] theorem Engine.takeError_ckKind (c : Engine) (e : Err) : (c.takeError e).ckKind = c.ckKind := rfl
@[simp] theorem Engine.takeError_ckState (c : Engine) (e : Err) : (c.takeError e).ckState = c.ckState := rfl
@[simp] theorem Engine.takeError_len (c : Engine) (e : Err) : (c.takeError e).len = c.len := rfl
@[simp] theorem Engine.takeError_lt (c : Engine) (e : Err) : (c.takeError e).lt = c.lt := rfl
@[simp] theorem Engine.takeError_dt (c : Engine) (e : Err) : (c.takeError e).dt = c.dt := rfl
@[simp] theorem Engine.takeError_ct (c : Engine) (e : Err) : (c.takeError e).ct = c.ct := rfl
@[simp] theorem Engine.takeError_ring (c : Engine) (e : Err) : (c.takeError e).ring = c.ring := rfl
@[simp] theorem Engine.takeError_ringIdx (c : Engine) (e : Err) : (c.takeError e).ringIdx = c.ringIdx := rfl
@[simp] theorem Engine.takeError_ringFill (c : Engine) (e : Err) : (c.takeError e).ringFill = c.ringFill := rfl
@[simp] theorem Engine.takeError_dstPos (c : Engine) (e : Err) : (c.takeError e).dstPos = c.dstPos := rfl
@[simp] theorem Engine.takeError_outCount (c : Engine) (e : Err) : (c.takeError e).outCount = c.outCount := rfl
@[simp] theorem Engine.takeError_outSat (c : Engine) (e : Err) : (c.takeError e).outSat = c.outSat := rfl
@[simp] theorem Engine.takeError_lzRem (c : Engine) (e : Err) : (c.takeError e).lzRem = c.lzRem := rfl
@[simp] theorem Engine.takeError_lzDist (c : Engine) (e : Err) : (c.takeError e).lzDist = c.lzDist := rfl
@[simp] theorem Engine.takeError_srem (c : Engine) (e : Err) : (c.takeError e).srem = c.srem := rfl
@[simp] theorem Engine.takeError_latch (c : Engine) (e : Err) : (c.takeError e).latch = c.latch := rfl
@[simp] theorem Engine.takeError_mem (c : Engine) (e : Err) : (c.takeError e).mem = c.mem := rfl
@[simp] theorem Engine.takeError_platform (c : Engine) (e : Err) : (c.takeError e).platform = c.platform := rfl
@[simp] theorem Engine.takeError_ports (c : Engine) (e : Err) : (c.takeError e).ports = c.ports := rfl

/-! ### `Engine.takeStepError`: 44_inflate.md R235 -/

@[simp] theorem Engine.takeStepError_ctrl (c : Engine) (e : Err) (p : PState) (n : Word) : (c.takeStepError e p n).ctrl = c.ctrl := rfl
@[simp] theorem Engine.takeStepError_ringCapReg (c : Engine) (e : Err) (p : PState) (n : Word) : (c.takeStepError e p n).ringCapReg = c.ringCapReg := rfl
@[simp] theorem Engine.takeStepError_srcBase (c : Engine) (e : Err) (p : PState) (n : Word) : (c.takeStepError e p n).srcBase = c.srcBase := rfl
@[simp] theorem Engine.takeStepError_srcLen (c : Engine) (e : Err) (p : PState) (n : Word) : (c.takeStepError e p n).srcLen = c.srcLen := rfl
@[simp] theorem Engine.takeStepError_dstBase (c : Engine) (e : Err) (p : PState) (n : Word) : (c.takeStepError e p n).dstBase = c.dstBase := rfl
@[simp] theorem Engine.takeStepError_dstLen (c : Engine) (e : Err) (p : PState) (n : Word) : (c.takeStepError e p n).dstLen = c.dstLen := rfl
@[simp] theorem Engine.takeStepError_data (c : Engine) (e : Err) (p : PState) (n : Word) : (c.takeStepError e p n).data = c.data := rfl
@[simp] theorem Engine.takeStepError_result (c : Engine) (e : Err) (p : PState) (n : Word) : (c.takeStepError e p n).result = n := rfl
@[simp] theorem Engine.takeStepError_err (c : Engine) (e : Err) (p : PState) (n : Word) : (c.takeStepError e p n).err = e := rfl
@[simp] theorem Engine.takeStepError_pstate (c : Engine) (e : Err) (p : PState) (n : Word) : (c.takeStepError e p n).pstate = p := rfl
@[simp] theorem Engine.takeStepError_streamErr (c : Engine) (e : Err) (p : PState) (n : Word) : (c.takeStepError e p n).streamErr = e := rfl
@[simp] theorem Engine.takeStepError_bfinal (c : Engine) (e : Err) (p : PState) (n : Word) : (c.takeStepError e p n).bfinal = c.bfinal := rfl
@[simp] theorem Engine.takeStepError_btype (c : Engine) (e : Err) (p : PState) (n : Word) : (c.takeStepError e p n).btype = c.btype := rfl
@[simp] theorem Engine.takeStepError_bitacc (c : Engine) (e : Err) (p : PState) (n : Word) : (c.takeStepError e p n).bitacc = c.bitacc := rfl
@[simp] theorem Engine.takeStepError_bitcnt (c : Engine) (e : Err) (p : PState) (n : Word) : (c.takeStepError e p n).bitcnt = c.bitcnt := rfl
@[simp] theorem Engine.takeStepError_srcPos (c : Engine) (e : Err) (p : PState) (n : Word) : (c.takeStepError e p n).srcPos = c.srcPos := rfl
@[simp] theorem Engine.takeStepError_ckKind (c : Engine) (e : Err) (p : PState) (n : Word) : (c.takeStepError e p n).ckKind = c.ckKind := rfl
@[simp] theorem Engine.takeStepError_ckState (c : Engine) (e : Err) (p : PState) (n : Word) : (c.takeStepError e p n).ckState = c.ckState := rfl
@[simp] theorem Engine.takeStepError_len (c : Engine) (e : Err) (p : PState) (n : Word) : (c.takeStepError e p n).len = c.len := rfl
@[simp] theorem Engine.takeStepError_lt (c : Engine) (e : Err) (p : PState) (n : Word) : (c.takeStepError e p n).lt = c.lt := rfl
@[simp] theorem Engine.takeStepError_dt (c : Engine) (e : Err) (p : PState) (n : Word) : (c.takeStepError e p n).dt = c.dt := rfl
@[simp] theorem Engine.takeStepError_ct (c : Engine) (e : Err) (p : PState) (n : Word) : (c.takeStepError e p n).ct = c.ct := rfl
@[simp] theorem Engine.takeStepError_ring (c : Engine) (e : Err) (p : PState) (n : Word) : (c.takeStepError e p n).ring = c.ring := rfl
@[simp] theorem Engine.takeStepError_ringIdx (c : Engine) (e : Err) (p : PState) (n : Word) : (c.takeStepError e p n).ringIdx = c.ringIdx := rfl
@[simp] theorem Engine.takeStepError_ringFill (c : Engine) (e : Err) (p : PState) (n : Word) : (c.takeStepError e p n).ringFill = c.ringFill := rfl
@[simp] theorem Engine.takeStepError_dstPos (c : Engine) (e : Err) (p : PState) (n : Word) : (c.takeStepError e p n).dstPos = c.dstPos := rfl
@[simp] theorem Engine.takeStepError_outCount (c : Engine) (e : Err) (p : PState) (n : Word) : (c.takeStepError e p n).outCount = c.outCount := rfl
@[simp] theorem Engine.takeStepError_outSat (c : Engine) (e : Err) (p : PState) (n : Word) : (c.takeStepError e p n).outSat = c.outSat := rfl
@[simp] theorem Engine.takeStepError_lzRem (c : Engine) (e : Err) (p : PState) (n : Word) : (c.takeStepError e p n).lzRem = c.lzRem := rfl
@[simp] theorem Engine.takeStepError_lzDist (c : Engine) (e : Err) (p : PState) (n : Word) : (c.takeStepError e p n).lzDist = c.lzDist := rfl
@[simp] theorem Engine.takeStepError_srem (c : Engine) (e : Err) (p : PState) (n : Word) : (c.takeStepError e p n).srem = c.srem := rfl
@[simp] theorem Engine.takeStepError_latch (c : Engine) (e : Err) (p : PState) (n : Word) : (c.takeStepError e p n).latch = c.latch := rfl
@[simp] theorem Engine.takeStepError_mem (c : Engine) (e : Err) (p : PState) (n : Word) : (c.takeStepError e p n).mem = c.mem := rfl
@[simp] theorem Engine.takeStepError_platform (c : Engine) (e : Err) (p : PState) (n : Word) : (c.takeStepError e p n).platform = c.platform := rfl
@[simp] theorem Engine.takeStepError_ports (c : Engine) (e : Err) (p : PState) (n : Word) : (c.takeStepError e p n).ports = c.ports := rfl

/-! ### `Engine.startStream`: 44_inflate.md R222 -/

@[simp] theorem Engine.startStream_ctrl (c : Engine) : (c.startStream).ctrl = c.ctrl := rfl
@[simp] theorem Engine.startStream_ringCapReg (c : Engine) : (c.startStream).ringCapReg = c.ringCapReg := rfl
@[simp] theorem Engine.startStream_srcBase (c : Engine) : (c.startStream).srcBase = c.srcBase := rfl
@[simp] theorem Engine.startStream_srcLen (c : Engine) : (c.startStream).srcLen = c.srcLen := rfl
@[simp] theorem Engine.startStream_dstBase (c : Engine) : (c.startStream).dstBase = c.dstBase := rfl
@[simp] theorem Engine.startStream_dstLen (c : Engine) : (c.startStream).dstLen = c.dstLen := rfl
@[simp] theorem Engine.startStream_data (c : Engine) : (c.startStream).data = c.data := rfl
@[simp] theorem Engine.startStream_result (c : Engine) : (c.startStream).result = c.result := rfl
@[simp] theorem Engine.startStream_err (c : Engine) : (c.startStream).err = c.err := rfl
@[simp] theorem Engine.startStream_pstate (c : Engine) : (c.startStream).pstate = .hdr := rfl
@[simp] theorem Engine.startStream_streamErr (c : Engine) : (c.startStream).streamErr = .none := rfl
@[simp] theorem Engine.startStream_bfinal (c : Engine) : (c.startStream).bfinal = false := rfl
@[simp] theorem Engine.startStream_btype (c : Engine) : (c.startStream).btype = 0 := rfl
@[simp] theorem Engine.startStream_bitacc (c : Engine) : (c.startStream).bitacc = 0 := rfl
@[simp] theorem Engine.startStream_bitcnt (c : Engine) : (c.startStream).bitcnt = 0 := rfl
@[simp] theorem Engine.startStream_srcPos (c : Engine) : (c.startStream).srcPos = 0 := rfl
@[simp] theorem Engine.startStream_ckKind (c : Engine) : (c.startStream).ckKind = c.ctrl.ckKind := rfl
@[simp] theorem Engine.startStream_ckState (c : Engine) : (c.startStream).ckState = c.ctrl.ckKind.seed := rfl
@[simp] theorem Engine.startStream_len (c : Engine) : (c.startStream).len = c.len := rfl
@[simp] theorem Engine.startStream_lt (c : Engine) : (c.startStream).lt = c.lt := rfl
@[simp] theorem Engine.startStream_dt (c : Engine) : (c.startStream).dt = c.dt := rfl
@[simp] theorem Engine.startStream_ct (c : Engine) : (c.startStream).ct = c.ct := rfl
@[simp] theorem Engine.startStream_ring (c : Engine) : (c.startStream).ring = c.ring := rfl
@[simp] theorem Engine.startStream_ringIdx (c : Engine) : (c.startStream).ringIdx = 0 := rfl
@[simp] theorem Engine.startStream_ringFill (c : Engine) : (c.startStream).ringFill = 0 := rfl
@[simp] theorem Engine.startStream_dstPos (c : Engine) : (c.startStream).dstPos = 0 := rfl
@[simp] theorem Engine.startStream_outCount (c : Engine) : (c.startStream).outCount = 0 := rfl
@[simp] theorem Engine.startStream_outSat (c : Engine) : (c.startStream).outSat = 0 := rfl
@[simp] theorem Engine.startStream_lzRem (c : Engine) : (c.startStream).lzRem = 0 := rfl
@[simp] theorem Engine.startStream_lzDist (c : Engine) : (c.startStream).lzDist = 0 := rfl
@[simp] theorem Engine.startStream_srem (c : Engine) : (c.startStream).srem = 0 := rfl
@[simp] theorem Engine.startStream_latch (c : Engine) : (c.startStream).latch = c.hostConfig := rfl
@[simp] theorem Engine.startStream_mem (c : Engine) : (c.startStream).mem = c.mem := rfl
@[simp] theorem Engine.startStream_platform (c : Engine) : (c.startStream).platform = c.platform := rfl
@[simp] theorem Engine.startStream_ports (c : Engine) : (c.startStream).ports = { c.ports with pullEnded := false } := rfl

/-! ### `Engine.offerPull`: log entry 4 -/

@[simp] theorem Engine.offerPull_ctrl (c : Engine) (a : PullAnswer) : (c.offerPull a).ctrl = c.ctrl := rfl
@[simp] theorem Engine.offerPull_ringCapReg (c : Engine) (a : PullAnswer) : (c.offerPull a).ringCapReg = c.ringCapReg := rfl
@[simp] theorem Engine.offerPull_srcBase (c : Engine) (a : PullAnswer) : (c.offerPull a).srcBase = c.srcBase := rfl
@[simp] theorem Engine.offerPull_srcLen (c : Engine) (a : PullAnswer) : (c.offerPull a).srcLen = c.srcLen := rfl
@[simp] theorem Engine.offerPull_dstBase (c : Engine) (a : PullAnswer) : (c.offerPull a).dstBase = c.dstBase := rfl
@[simp] theorem Engine.offerPull_dstLen (c : Engine) (a : PullAnswer) : (c.offerPull a).dstLen = c.dstLen := rfl
@[simp] theorem Engine.offerPull_data (c : Engine) (a : PullAnswer) : (c.offerPull a).data = c.data := rfl
@[simp] theorem Engine.offerPull_result (c : Engine) (a : PullAnswer) : (c.offerPull a).result = c.result := rfl
@[simp] theorem Engine.offerPull_err (c : Engine) (a : PullAnswer) : (c.offerPull a).err = c.err := rfl
@[simp] theorem Engine.offerPull_pstate (c : Engine) (a : PullAnswer) : (c.offerPull a).pstate = c.pstate := rfl
@[simp] theorem Engine.offerPull_streamErr (c : Engine) (a : PullAnswer) : (c.offerPull a).streamErr = c.streamErr := rfl
@[simp] theorem Engine.offerPull_bfinal (c : Engine) (a : PullAnswer) : (c.offerPull a).bfinal = c.bfinal := rfl
@[simp] theorem Engine.offerPull_btype (c : Engine) (a : PullAnswer) : (c.offerPull a).btype = c.btype := rfl
@[simp] theorem Engine.offerPull_bitacc (c : Engine) (a : PullAnswer) : (c.offerPull a).bitacc = c.bitacc := rfl
@[simp] theorem Engine.offerPull_bitcnt (c : Engine) (a : PullAnswer) : (c.offerPull a).bitcnt = c.bitcnt := rfl
@[simp] theorem Engine.offerPull_srcPos (c : Engine) (a : PullAnswer) : (c.offerPull a).srcPos = c.srcPos := rfl
@[simp] theorem Engine.offerPull_ckKind (c : Engine) (a : PullAnswer) : (c.offerPull a).ckKind = c.ckKind := rfl
@[simp] theorem Engine.offerPull_ckState (c : Engine) (a : PullAnswer) : (c.offerPull a).ckState = c.ckState := rfl
@[simp] theorem Engine.offerPull_len (c : Engine) (a : PullAnswer) : (c.offerPull a).len = c.len := rfl
@[simp] theorem Engine.offerPull_lt (c : Engine) (a : PullAnswer) : (c.offerPull a).lt = c.lt := rfl
@[simp] theorem Engine.offerPull_dt (c : Engine) (a : PullAnswer) : (c.offerPull a).dt = c.dt := rfl
@[simp] theorem Engine.offerPull_ct (c : Engine) (a : PullAnswer) : (c.offerPull a).ct = c.ct := rfl
@[simp] theorem Engine.offerPull_ring (c : Engine) (a : PullAnswer) : (c.offerPull a).ring = c.ring := rfl
@[simp] theorem Engine.offerPull_ringIdx (c : Engine) (a : PullAnswer) : (c.offerPull a).ringIdx = c.ringIdx := rfl
@[simp] theorem Engine.offerPull_ringFill (c : Engine) (a : PullAnswer) : (c.offerPull a).ringFill = c.ringFill := rfl
@[simp] theorem Engine.offerPull_dstPos (c : Engine) (a : PullAnswer) : (c.offerPull a).dstPos = c.dstPos := rfl
@[simp] theorem Engine.offerPull_outCount (c : Engine) (a : PullAnswer) : (c.offerPull a).outCount = c.outCount := rfl
@[simp] theorem Engine.offerPull_outSat (c : Engine) (a : PullAnswer) : (c.offerPull a).outSat = c.outSat := rfl
@[simp] theorem Engine.offerPull_lzRem (c : Engine) (a : PullAnswer) : (c.offerPull a).lzRem = c.lzRem := rfl
@[simp] theorem Engine.offerPull_lzDist (c : Engine) (a : PullAnswer) : (c.offerPull a).lzDist = c.lzDist := rfl
@[simp] theorem Engine.offerPull_srem (c : Engine) (a : PullAnswer) : (c.offerPull a).srem = c.srem := rfl
@[simp] theorem Engine.offerPull_latch (c : Engine) (a : PullAnswer) : (c.offerPull a).latch = c.latch := rfl
@[simp] theorem Engine.offerPull_mem (c : Engine) (a : PullAnswer) : (c.offerPull a).mem = c.mem := rfl
@[simp] theorem Engine.offerPull_platform (c : Engine) (a : PullAnswer) : (c.offerPull a).platform = c.platform := rfl
@[simp] theorem Engine.offerPull_ports (c : Engine) (a : PullAnswer) : (c.offerPull a).ports = { c.ports with pullQ := c.ports.pullQ ++ [a] } := rfl

/-! ### `Engine.offerPush`: log entry 4 -/

@[simp] theorem Engine.offerPush_ctrl (c : Engine) : (c.offerPush).ctrl = c.ctrl := rfl
@[simp] theorem Engine.offerPush_ringCapReg (c : Engine) : (c.offerPush).ringCapReg = c.ringCapReg := rfl
@[simp] theorem Engine.offerPush_srcBase (c : Engine) : (c.offerPush).srcBase = c.srcBase := rfl
@[simp] theorem Engine.offerPush_srcLen (c : Engine) : (c.offerPush).srcLen = c.srcLen := rfl
@[simp] theorem Engine.offerPush_dstBase (c : Engine) : (c.offerPush).dstBase = c.dstBase := rfl
@[simp] theorem Engine.offerPush_dstLen (c : Engine) : (c.offerPush).dstLen = c.dstLen := rfl
@[simp] theorem Engine.offerPush_data (c : Engine) : (c.offerPush).data = c.data := rfl
@[simp] theorem Engine.offerPush_result (c : Engine) : (c.offerPush).result = c.result := rfl
@[simp] theorem Engine.offerPush_err (c : Engine) : (c.offerPush).err = c.err := rfl
@[simp] theorem Engine.offerPush_pstate (c : Engine) : (c.offerPush).pstate = c.pstate := rfl
@[simp] theorem Engine.offerPush_streamErr (c : Engine) : (c.offerPush).streamErr = c.streamErr := rfl
@[simp] theorem Engine.offerPush_bfinal (c : Engine) : (c.offerPush).bfinal = c.bfinal := rfl
@[simp] theorem Engine.offerPush_btype (c : Engine) : (c.offerPush).btype = c.btype := rfl
@[simp] theorem Engine.offerPush_bitacc (c : Engine) : (c.offerPush).bitacc = c.bitacc := rfl
@[simp] theorem Engine.offerPush_bitcnt (c : Engine) : (c.offerPush).bitcnt = c.bitcnt := rfl
@[simp] theorem Engine.offerPush_srcPos (c : Engine) : (c.offerPush).srcPos = c.srcPos := rfl
@[simp] theorem Engine.offerPush_ckKind (c : Engine) : (c.offerPush).ckKind = c.ckKind := rfl
@[simp] theorem Engine.offerPush_ckState (c : Engine) : (c.offerPush).ckState = c.ckState := rfl
@[simp] theorem Engine.offerPush_len (c : Engine) : (c.offerPush).len = c.len := rfl
@[simp] theorem Engine.offerPush_lt (c : Engine) : (c.offerPush).lt = c.lt := rfl
@[simp] theorem Engine.offerPush_dt (c : Engine) : (c.offerPush).dt = c.dt := rfl
@[simp] theorem Engine.offerPush_ct (c : Engine) : (c.offerPush).ct = c.ct := rfl
@[simp] theorem Engine.offerPush_ring (c : Engine) : (c.offerPush).ring = c.ring := rfl
@[simp] theorem Engine.offerPush_ringIdx (c : Engine) : (c.offerPush).ringIdx = c.ringIdx := rfl
@[simp] theorem Engine.offerPush_ringFill (c : Engine) : (c.offerPush).ringFill = c.ringFill := rfl
@[simp] theorem Engine.offerPush_dstPos (c : Engine) : (c.offerPush).dstPos = c.dstPos := rfl
@[simp] theorem Engine.offerPush_outCount (c : Engine) : (c.offerPush).outCount = c.outCount := rfl
@[simp] theorem Engine.offerPush_outSat (c : Engine) : (c.offerPush).outSat = c.outSat := rfl
@[simp] theorem Engine.offerPush_lzRem (c : Engine) : (c.offerPush).lzRem = c.lzRem := rfl
@[simp] theorem Engine.offerPush_lzDist (c : Engine) : (c.offerPush).lzDist = c.lzDist := rfl
@[simp] theorem Engine.offerPush_srem (c : Engine) : (c.offerPush).srem = c.srem := rfl
@[simp] theorem Engine.offerPush_latch (c : Engine) : (c.offerPush).latch = c.latch := rfl
@[simp] theorem Engine.offerPush_mem (c : Engine) : (c.offerPush).mem = c.mem := rfl
@[simp] theorem Engine.offerPush_platform (c : Engine) : (c.offerPush).platform = c.platform := rfl
@[simp] theorem Engine.offerPush_ports (c : Engine) : (c.offerPush).ports = { c.ports with pushReady := c.ports.pushReady + 1 } := rfl

/-! ### `Engine.offerReadDest`: log entry 4 -/

@[simp] theorem Engine.offerReadDest_ctrl (c : Engine) (b : Byte) : (c.offerReadDest b).ctrl = c.ctrl := rfl
@[simp] theorem Engine.offerReadDest_ringCapReg (c : Engine) (b : Byte) : (c.offerReadDest b).ringCapReg = c.ringCapReg := rfl
@[simp] theorem Engine.offerReadDest_srcBase (c : Engine) (b : Byte) : (c.offerReadDest b).srcBase = c.srcBase := rfl
@[simp] theorem Engine.offerReadDest_srcLen (c : Engine) (b : Byte) : (c.offerReadDest b).srcLen = c.srcLen := rfl
@[simp] theorem Engine.offerReadDest_dstBase (c : Engine) (b : Byte) : (c.offerReadDest b).dstBase = c.dstBase := rfl
@[simp] theorem Engine.offerReadDest_dstLen (c : Engine) (b : Byte) : (c.offerReadDest b).dstLen = c.dstLen := rfl
@[simp] theorem Engine.offerReadDest_data (c : Engine) (b : Byte) : (c.offerReadDest b).data = c.data := rfl
@[simp] theorem Engine.offerReadDest_result (c : Engine) (b : Byte) : (c.offerReadDest b).result = c.result := rfl
@[simp] theorem Engine.offerReadDest_err (c : Engine) (b : Byte) : (c.offerReadDest b).err = c.err := rfl
@[simp] theorem Engine.offerReadDest_pstate (c : Engine) (b : Byte) : (c.offerReadDest b).pstate = c.pstate := rfl
@[simp] theorem Engine.offerReadDest_streamErr (c : Engine) (b : Byte) : (c.offerReadDest b).streamErr = c.streamErr := rfl
@[simp] theorem Engine.offerReadDest_bfinal (c : Engine) (b : Byte) : (c.offerReadDest b).bfinal = c.bfinal := rfl
@[simp] theorem Engine.offerReadDest_btype (c : Engine) (b : Byte) : (c.offerReadDest b).btype = c.btype := rfl
@[simp] theorem Engine.offerReadDest_bitacc (c : Engine) (b : Byte) : (c.offerReadDest b).bitacc = c.bitacc := rfl
@[simp] theorem Engine.offerReadDest_bitcnt (c : Engine) (b : Byte) : (c.offerReadDest b).bitcnt = c.bitcnt := rfl
@[simp] theorem Engine.offerReadDest_srcPos (c : Engine) (b : Byte) : (c.offerReadDest b).srcPos = c.srcPos := rfl
@[simp] theorem Engine.offerReadDest_ckKind (c : Engine) (b : Byte) : (c.offerReadDest b).ckKind = c.ckKind := rfl
@[simp] theorem Engine.offerReadDest_ckState (c : Engine) (b : Byte) : (c.offerReadDest b).ckState = c.ckState := rfl
@[simp] theorem Engine.offerReadDest_len (c : Engine) (b : Byte) : (c.offerReadDest b).len = c.len := rfl
@[simp] theorem Engine.offerReadDest_lt (c : Engine) (b : Byte) : (c.offerReadDest b).lt = c.lt := rfl
@[simp] theorem Engine.offerReadDest_dt (c : Engine) (b : Byte) : (c.offerReadDest b).dt = c.dt := rfl
@[simp] theorem Engine.offerReadDest_ct (c : Engine) (b : Byte) : (c.offerReadDest b).ct = c.ct := rfl
@[simp] theorem Engine.offerReadDest_ring (c : Engine) (b : Byte) : (c.offerReadDest b).ring = c.ring := rfl
@[simp] theorem Engine.offerReadDest_ringIdx (c : Engine) (b : Byte) : (c.offerReadDest b).ringIdx = c.ringIdx := rfl
@[simp] theorem Engine.offerReadDest_ringFill (c : Engine) (b : Byte) : (c.offerReadDest b).ringFill = c.ringFill := rfl
@[simp] theorem Engine.offerReadDest_dstPos (c : Engine) (b : Byte) : (c.offerReadDest b).dstPos = c.dstPos := rfl
@[simp] theorem Engine.offerReadDest_outCount (c : Engine) (b : Byte) : (c.offerReadDest b).outCount = c.outCount := rfl
@[simp] theorem Engine.offerReadDest_outSat (c : Engine) (b : Byte) : (c.offerReadDest b).outSat = c.outSat := rfl
@[simp] theorem Engine.offerReadDest_lzRem (c : Engine) (b : Byte) : (c.offerReadDest b).lzRem = c.lzRem := rfl
@[simp] theorem Engine.offerReadDest_lzDist (c : Engine) (b : Byte) : (c.offerReadDest b).lzDist = c.lzDist := rfl
@[simp] theorem Engine.offerReadDest_srem (c : Engine) (b : Byte) : (c.offerReadDest b).srem = c.srem := rfl
@[simp] theorem Engine.offerReadDest_latch (c : Engine) (b : Byte) : (c.offerReadDest b).latch = c.latch := rfl
@[simp] theorem Engine.offerReadDest_mem (c : Engine) (b : Byte) : (c.offerReadDest b).mem = c.mem := rfl
@[simp] theorem Engine.offerReadDest_platform (c : Engine) (b : Byte) : (c.offerReadDest b).platform = c.platform := rfl
@[simp] theorem Engine.offerReadDest_ports (c : Engine) (b : Byte) : (c.offerReadDest b).ports = { c.ports with readDestQ := c.ports.readDestQ ++ [b] } := rfl

/-! ### `Engine.hwReset`: 70_reset_and_hazards.md R300 -/

@[simp] theorem Engine.hwReset_ctrl (c : Engine) : c.hwReset.ctrl = Engine.reset.ctrl := rfl
@[simp] theorem Engine.hwReset_ringCapReg (c : Engine) : c.hwReset.ringCapReg = Engine.reset.ringCapReg := rfl
@[simp] theorem Engine.hwReset_srcBase (c : Engine) : c.hwReset.srcBase = Engine.reset.srcBase := rfl
@[simp] theorem Engine.hwReset_srcLen (c : Engine) : c.hwReset.srcLen = Engine.reset.srcLen := rfl
@[simp] theorem Engine.hwReset_dstBase (c : Engine) : c.hwReset.dstBase = Engine.reset.dstBase := rfl
@[simp] theorem Engine.hwReset_dstLen (c : Engine) : c.hwReset.dstLen = Engine.reset.dstLen := rfl
@[simp] theorem Engine.hwReset_data (c : Engine) : c.hwReset.data = Engine.reset.data := rfl
@[simp] theorem Engine.hwReset_result (c : Engine) : c.hwReset.result = Engine.reset.result := rfl
@[simp] theorem Engine.hwReset_err (c : Engine) : c.hwReset.err = Engine.reset.err := rfl
@[simp] theorem Engine.hwReset_pstate (c : Engine) : c.hwReset.pstate = Engine.reset.pstate := rfl
@[simp] theorem Engine.hwReset_streamErr (c : Engine) : c.hwReset.streamErr = Engine.reset.streamErr := rfl
@[simp] theorem Engine.hwReset_bfinal (c : Engine) : c.hwReset.bfinal = Engine.reset.bfinal := rfl
@[simp] theorem Engine.hwReset_btype (c : Engine) : c.hwReset.btype = Engine.reset.btype := rfl
@[simp] theorem Engine.hwReset_bitacc (c : Engine) : c.hwReset.bitacc = Engine.reset.bitacc := rfl
@[simp] theorem Engine.hwReset_bitcnt (c : Engine) : c.hwReset.bitcnt = Engine.reset.bitcnt := rfl
@[simp] theorem Engine.hwReset_srcPos (c : Engine) : c.hwReset.srcPos = Engine.reset.srcPos := rfl
@[simp] theorem Engine.hwReset_ckKind (c : Engine) : c.hwReset.ckKind = Engine.reset.ckKind := rfl
@[simp] theorem Engine.hwReset_ckState (c : Engine) : c.hwReset.ckState = Engine.reset.ckState := rfl
@[simp] theorem Engine.hwReset_len (c : Engine) : c.hwReset.len = Engine.reset.len := rfl
@[simp] theorem Engine.hwReset_lt (c : Engine) : c.hwReset.lt = Engine.reset.lt := rfl
@[simp] theorem Engine.hwReset_dt (c : Engine) : c.hwReset.dt = Engine.reset.dt := rfl
@[simp] theorem Engine.hwReset_ct (c : Engine) : c.hwReset.ct = Engine.reset.ct := rfl
@[simp] theorem Engine.hwReset_ring (c : Engine) : c.hwReset.ring = Engine.reset.ring := rfl
@[simp] theorem Engine.hwReset_ringIdx (c : Engine) : c.hwReset.ringIdx = Engine.reset.ringIdx := rfl
@[simp] theorem Engine.hwReset_ringFill (c : Engine) : c.hwReset.ringFill = Engine.reset.ringFill := rfl
@[simp] theorem Engine.hwReset_dstPos (c : Engine) : c.hwReset.dstPos = Engine.reset.dstPos := rfl
@[simp] theorem Engine.hwReset_outCount (c : Engine) : c.hwReset.outCount = Engine.reset.outCount := rfl
@[simp] theorem Engine.hwReset_outSat (c : Engine) : c.hwReset.outSat = Engine.reset.outSat := rfl
@[simp] theorem Engine.hwReset_lzRem (c : Engine) : c.hwReset.lzRem = Engine.reset.lzRem := rfl
@[simp] theorem Engine.hwReset_lzDist (c : Engine) : c.hwReset.lzDist = Engine.reset.lzDist := rfl
@[simp] theorem Engine.hwReset_srem (c : Engine) : c.hwReset.srem = Engine.reset.srem := rfl
@[simp] theorem Engine.hwReset_latch (c : Engine) : c.hwReset.latch = Engine.reset.latch := rfl
@[simp] theorem Engine.hwReset_mem (c : Engine) : c.hwReset.mem = c.mem := rfl
@[simp] theorem Engine.hwReset_platform (c : Engine) : c.hwReset.platform = c.platform := rfl
@[simp] theorem Engine.hwReset_ports (c : Engine) : c.hwReset.ports = { c.ports with pullEnded := false } := rfl

/-! ### `State.complete`: 60_exceptions.md R271 -/

@[simp] theorem State.complete_toEngine (s : State) (c : Engine) : (s.complete c).toEngine = c := rfl
@[simp] theorem State.complete_busy (s : State) (c : Engine) : (s.complete c).busy = false := rfl
@[simp] theorem State.complete_drop (s : State) (c : Engine) : (s.complete c).drop = s.drop := rfl
@[simp] theorem State.complete_running (s : State) (c : Engine) : (s.complete c).running = none := rfl
@[simp] theorem State.complete_hostq (s : State) (c : Engine) : (s.complete c).hostq = s.hostq := rfl
@[simp] theorem State.complete_busReads (s : State) (c : Engine) : (s.complete c).busReads = s.busReads := rfl

/-! ### `State.suspend`: 60_exceptions.md R288 -/

@[simp] theorem State.suspend_toEngine (s : State) (i : Instr) (b c : Engine) (w : Waiting) : (s.suspend i b c w).toEngine = c := rfl
@[simp] theorem State.suspend_busy (s : State) (i : Instr) (b c : Engine) (w : Waiting) : (s.suspend i b c w).busy = true := rfl
@[simp] theorem State.suspend_drop (s : State) (i : Instr) (b c : Engine) (w : Waiting) : (s.suspend i b c w).drop = s.drop := rfl
@[simp] theorem State.suspend_running (s : State) (i : Instr) (b c : Engine) (w : Waiting) : (s.suspend i b c w).running = some ⟨i, b, w⟩ := rfl
@[simp] theorem State.suspend_hostq (s : State) (i : Instr) (b c : Engine) (w : Waiting) : (s.suspend i b c w).hostq = s.hostq := rfl
@[simp] theorem State.suspend_busReads (s : State) (i : Instr) (b c : Engine) (w : Waiting) : (s.suspend i b c w).busReads = s.busReads := rfl

/-! ### `State.accept`: 60_exceptions.md R271 -/

@[simp] theorem State.accept_toEngine (s : State) : (s.accept).toEngine = { s.toEngine with err := .none } := rfl
@[simp] theorem State.accept_busy (s : State) : (s.accept).busy = true := rfl
@[simp] theorem State.accept_drop (s : State) : (s.accept).drop = false := rfl
@[simp] theorem State.accept_running (s : State) : (s.accept).running = s.running := rfl
@[simp] theorem State.accept_hostq (s : State) : (s.accept).hostq = s.hostq := rfl
@[simp] theorem State.accept_busReads (s : State) : (s.accept).busReads = s.busReads := rfl

/-! ### `State.illegal`: 60_exceptions.md R274 -/

@[simp] theorem State.illegal_toEngine (s : State) : (s.illegal).toEngine = s.toEngine.takeError .illegalCmd := rfl
@[simp] theorem State.illegal_busy (s : State) : (s.illegal).busy = false := rfl
@[simp] theorem State.illegal_drop (s : State) : (s.illegal).drop = s.drop := rfl
@[simp] theorem State.illegal_running (s : State) : (s.illegal).running = none := rfl
@[simp] theorem State.illegal_hostq (s : State) : (s.illegal).hostq = s.hostq := rfl
@[simp] theorem State.illegal_busReads (s : State) : (s.illegal).busReads = s.busReads := rfl

/-! ### `State.hwReset`: 70_reset_and_hazards.md R300, R301 -/

@[simp] theorem State.hwReset_toEngine (s : State) : (s.hwReset).toEngine = s.toEngine.hwReset := rfl
@[simp] theorem State.hwReset_busy (s : State) : (s.hwReset).busy = false := rfl
@[simp] theorem State.hwReset_drop (s : State) : (s.hwReset).drop = false := rfl
@[simp] theorem State.hwReset_running (s : State) : (s.hwReset).running = none := rfl
@[simp] theorem State.hwReset_hostq (s : State) : (s.hwReset).hostq = s.hostq := rfl
@[simp] theorem State.hwReset_busReads (s : State) : (s.hwReset).busReads = s.busReads := rfl

/-! ### `State.withFetchWord`: log entry 2 -/

@[simp] theorem State.withFetchWord_toEngine (s : State) (n w : Nat) : (s.withFetchWord n w).toEngine = s.toEngine := rfl
@[simp] theorem State.withFetchWord_busy (s : State) (n w : Nat) : (s.withFetchWord n w).busy = false := rfl
@[simp] theorem State.withFetchWord_drop (s : State) (n w : Nat) : (s.withFetchWord n w).drop = s.drop := rfl
@[simp] theorem State.withFetchWord_running (s : State) (n w : Nat) : (s.withFetchWord n w).running = none := rfl
@[simp] theorem State.withFetchWord_hostq (s : State) (n w : Nat) : (s.withFetchWord n w).hostq = s.cmdAction (BitVec.ofNat 32 (w % 2 ^ n)) :: s.hostq := rfl
@[simp] theorem State.withFetchWord_busReads (s : State) (n w : Nat) : (s.withFetchWord n w).busReads = s.busReads := rfl

/-! ### Tree slots: 42_huffman.md R160, R166 -/

@[simp] theorem Engine.tree_setTree_same (c : Engine) (sl : Slot) (t : Tree) : (c.setTree sl t).tree sl = t := by
  cases sl <;> rfl

theorem Engine.tree_setTree_other (c : Engine) (sl sl' : Slot) (t : Tree) (h : sl' ≠ sl) :
    (c.setTree sl t).tree sl' = c.tree sl' := by
  cases sl <;> cases sl' <;> first | rfl | exact absurd rfl h

@[simp] theorem Engine.setTree_ctrl (c : Engine) (sl : Slot) (t : Tree) : (c.setTree sl t).ctrl = c.ctrl := by
  cases sl <;> rfl

@[simp] theorem Engine.setTree_ringCapReg (c : Engine) (sl : Slot) (t : Tree) : (c.setTree sl t).ringCapReg = c.ringCapReg := by
  cases sl <;> rfl

@[simp] theorem Engine.setTree_srcBase (c : Engine) (sl : Slot) (t : Tree) : (c.setTree sl t).srcBase = c.srcBase := by
  cases sl <;> rfl

@[simp] theorem Engine.setTree_srcLen (c : Engine) (sl : Slot) (t : Tree) : (c.setTree sl t).srcLen = c.srcLen := by
  cases sl <;> rfl

@[simp] theorem Engine.setTree_dstBase (c : Engine) (sl : Slot) (t : Tree) : (c.setTree sl t).dstBase = c.dstBase := by
  cases sl <;> rfl

@[simp] theorem Engine.setTree_dstLen (c : Engine) (sl : Slot) (t : Tree) : (c.setTree sl t).dstLen = c.dstLen := by
  cases sl <;> rfl

@[simp] theorem Engine.setTree_data (c : Engine) (sl : Slot) (t : Tree) : (c.setTree sl t).data = c.data := by
  cases sl <;> rfl

@[simp] theorem Engine.setTree_result (c : Engine) (sl : Slot) (t : Tree) : (c.setTree sl t).result = c.result := by
  cases sl <;> rfl

@[simp] theorem Engine.setTree_err (c : Engine) (sl : Slot) (t : Tree) : (c.setTree sl t).err = c.err := by
  cases sl <;> rfl

@[simp] theorem Engine.setTree_pstate (c : Engine) (sl : Slot) (t : Tree) : (c.setTree sl t).pstate = c.pstate := by
  cases sl <;> rfl

@[simp] theorem Engine.setTree_streamErr (c : Engine) (sl : Slot) (t : Tree) : (c.setTree sl t).streamErr = c.streamErr := by
  cases sl <;> rfl

@[simp] theorem Engine.setTree_bfinal (c : Engine) (sl : Slot) (t : Tree) : (c.setTree sl t).bfinal = c.bfinal := by
  cases sl <;> rfl

@[simp] theorem Engine.setTree_btype (c : Engine) (sl : Slot) (t : Tree) : (c.setTree sl t).btype = c.btype := by
  cases sl <;> rfl

@[simp] theorem Engine.setTree_bitacc (c : Engine) (sl : Slot) (t : Tree) : (c.setTree sl t).bitacc = c.bitacc := by
  cases sl <;> rfl

@[simp] theorem Engine.setTree_bitcnt (c : Engine) (sl : Slot) (t : Tree) : (c.setTree sl t).bitcnt = c.bitcnt := by
  cases sl <;> rfl

@[simp] theorem Engine.setTree_srcPos (c : Engine) (sl : Slot) (t : Tree) : (c.setTree sl t).srcPos = c.srcPos := by
  cases sl <;> rfl

@[simp] theorem Engine.setTree_ckKind (c : Engine) (sl : Slot) (t : Tree) : (c.setTree sl t).ckKind = c.ckKind := by
  cases sl <;> rfl

@[simp] theorem Engine.setTree_ckState (c : Engine) (sl : Slot) (t : Tree) : (c.setTree sl t).ckState = c.ckState := by
  cases sl <;> rfl

@[simp] theorem Engine.setTree_len (c : Engine) (sl : Slot) (t : Tree) : (c.setTree sl t).len = c.len := by
  cases sl <;> rfl

@[simp] theorem Engine.setTree_ring (c : Engine) (sl : Slot) (t : Tree) : (c.setTree sl t).ring = c.ring := by
  cases sl <;> rfl

@[simp] theorem Engine.setTree_ringIdx (c : Engine) (sl : Slot) (t : Tree) : (c.setTree sl t).ringIdx = c.ringIdx := by
  cases sl <;> rfl

@[simp] theorem Engine.setTree_ringFill (c : Engine) (sl : Slot) (t : Tree) : (c.setTree sl t).ringFill = c.ringFill := by
  cases sl <;> rfl

@[simp] theorem Engine.setTree_dstPos (c : Engine) (sl : Slot) (t : Tree) : (c.setTree sl t).dstPos = c.dstPos := by
  cases sl <;> rfl

@[simp] theorem Engine.setTree_outCount (c : Engine) (sl : Slot) (t : Tree) : (c.setTree sl t).outCount = c.outCount := by
  cases sl <;> rfl

@[simp] theorem Engine.setTree_outSat (c : Engine) (sl : Slot) (t : Tree) : (c.setTree sl t).outSat = c.outSat := by
  cases sl <;> rfl

@[simp] theorem Engine.setTree_lzRem (c : Engine) (sl : Slot) (t : Tree) : (c.setTree sl t).lzRem = c.lzRem := by
  cases sl <;> rfl

@[simp] theorem Engine.setTree_lzDist (c : Engine) (sl : Slot) (t : Tree) : (c.setTree sl t).lzDist = c.lzDist := by
  cases sl <;> rfl

@[simp] theorem Engine.setTree_srem (c : Engine) (sl : Slot) (t : Tree) : (c.setTree sl t).srem = c.srem := by
  cases sl <;> rfl

@[simp] theorem Engine.setTree_latch (c : Engine) (sl : Slot) (t : Tree) : (c.setTree sl t).latch = c.latch := by
  cases sl <;> rfl

@[simp] theorem Engine.setTree_mem (c : Engine) (sl : Slot) (t : Tree) : (c.setTree sl t).mem = c.mem := by
  cases sl <;> rfl

@[simp] theorem Engine.setTree_platform (c : Engine) (sl : Slot) (t : Tree) : (c.setTree sl t).platform = c.platform := by
  cases sl <;> rfl

@[simp] theorem Engine.setTree_ports (c : Engine) (sl : Slot) (t : Tree) : (c.setTree sl t).ports = c.ports := by
  cases sl <;> rfl

/-! ### Handshakes: 20_memory.md R66 -/

@[simp] theorem Ports.record_pullQ (p : Ports) (e : PortEvent) : (p.record e).pullQ = p.pullQ := rfl
@[simp] theorem Ports.record_pullEnded (p : Ports) (e : PortEvent) : (p.record e).pullEnded = p.pullEnded := rfl
@[simp] theorem Ports.record_pushReady (p : Ports) (e : PortEvent) : (p.record e).pushReady = p.pushReady := rfl
@[simp] theorem Ports.record_readDestQ (p : Ports) (e : PortEvent) : (p.record e).readDestQ = p.readDestQ := rfl
@[simp] theorem Ports.record_log (p : Ports) (e : PortEvent) : (p.record e).log = p.log ++ [e] := rfl

end Sys2Proof.Machine
end

