-- ==== Sys2Proof/Laws/Ops.lean ====
section
/-! SUPPORT. The shared operations: reading and writing a sparse store, the canonical form of memory, and for each operation
one equation that says everything it can do. Cite these; no proof has to unfold an operation. -/

namespace Sys2Proof

/-! ### Sparse stores -/

@[simp] theorem Cells.read_nil {α : Type} (a : Nat) : Cells.read ([] : Cells α) a = none := rfl

/-- A read after a write to the same index gives the value written. -/
@[simp] theorem Cells.read_write_same {α : Type} (m : Cells α) (a : Nat) (v : α) : (m.write a v).read a = some v := by
  induction m with
  | nil => simp [Cells.write, Cells.read]
  | cons p rest ih =>
    obtain ⟨k, w⟩ := p
    simp only [Cells.write]
    split
    · simp [Cells.read]
    · split
      · simp [Cells.read]
      · rename_i _ h
        simp [Cells.read, Ne.symm h, ih]

/-- A write leaves every other index alone. -/
theorem Cells.read_write_other {α : Type} (m : Cells α) (a b : Nat) (v : α) (h : b ≠ a) :
    (m.write a v).read b = m.read b := by
  induction m with
  | nil => simp [Cells.write, Cells.read, h.symm]
  | cons p rest ih =>
    obtain ⟨k, w⟩ := p
    simp only [Cells.write]
    split
    · simp [Cells.read, h.symm]
    · split
      · rename_i _ hk
        subst hk
        simp [Cells.read, h.symm]
      · simp [Cells.read, ih]

theorem Cells.read_write {α : Type} (m : Cells α) (a b : Nat) (v : α) :
    (m.write a v).read b = if b = a then some v else m.read b := by
  by_cases h : b = a
  · subst h; simp
  · simp [h, Cells.read_write_other m a b v h]

/-- Every index of a store after a write is the one written or one listed before. -/
theorem Cells.mem_write {α : Type} (m : Cells α) (a : Nat) (v : α) (p : Nat × α) (h : p ∈ m.write a v) :
    p = (a, v) ∨ p ∈ m := by
  induction m with
  | nil => simpa [Cells.write] using h
  | cons q rest ih =>
    obtain ⟨k, w⟩ := q
    simp only [Cells.write] at h
    split at h
    · simpa using h
    · split at h
      · simp only [List.mem_cons] at h ⊢
        tauto
      · simp only [List.mem_cons] at h ⊢
        rcases h with h | h
        · tauto
        · rcases ih h with h | h <;> tauto

theorem Cells.wf_cons {α : Type} (k : Nat) (v : α) (rest : Cells α) :
    Cells.wf ((k, v) :: rest) = true ↔ (∀ p ∈ rest, k < p.1) ∧ Cells.wf rest = true := by
  simp [Cells.wf]

/-- A write keeps the canonical form. -/
theorem Cells.wf_write {α : Type} (m : Cells α) (a : Nat) (v : α) (h : m.wf = true) : (m.write a v).wf = true := by
  induction m with
  | nil => simp [Cells.write, Cells.wf]
  | cons q rest ih =>
    obtain ⟨k, w⟩ := q
    obtain ⟨hlt, hrest⟩ := (Cells.wf_cons k w rest).mp h
    simp only [Cells.write]
    split
    · rename_i hak
      refine (Cells.wf_cons a v _).mpr ⟨?_, h⟩
      intro p hp
      rcases List.mem_cons.mp hp with rfl | hp
      · exact hak
      · exact lt_trans hak (hlt p hp)
    · split
      · rename_i _ hk
        subst hk
        exact (Cells.wf_cons a v rest).mpr ⟨hlt, hrest⟩
      · rename_i hak hk
        refine (Cells.wf_cons k w _).mpr ⟨?_, ih hrest⟩
        intro p hp
        rcases Cells.mem_write rest a v p hp with rfl | hp
        · change k < a
          omega
        · exact hlt p hp

namespace Machine

/-- Memory after reset lists nothing and is canonical. -/
theorem State.reset_mem_wf : Memory.wf State.reset.mem = true := rfl

/-! ### Commands as functions on the engine -/

/-- `raise` stops with the engine as it is. -/
@[simp] theorem raise_run {α : Type} (e : Err) (c : Engine) : (raise e : Cmd α).run c = .error (.raise e) c := rfl

/-- A sequence returns only if both pieces return. -/
theorem Cmd.bind_eq_ok {α β : Type} {x : Cmd α} {f : α → Cmd β} {c c'' : Engine} {b : β}
    (h : (x >>= f).run c = .ok b c'') : ∃ a c', x.run c = .ok a c' ∧ (f a).run c' = .ok b c'' := by
  rw [EStateM.run_bind] at h
  cases hx : x.run c with
  | ok a c' => exact ⟨a, c', rfl, by simpa [hx] using h⟩
  | error e c' => simp [hx] at h

/-- A sequence stops in the first piece, or in the second after the first has returned. -/
theorem Cmd.bind_eq_error {α β : Type} {x : Cmd α} {f : α → Cmd β} {c c'' : Engine} {e : Stop}
    (h : (x >>= f).run c = .error e c'') :
    x.run c = .error e c'' ∨ ∃ a c', x.run c = .ok a c' ∧ (f a).run c' = .error e c'' := by
  rw [EStateM.run_bind] at h
  cases hx : x.run c with
  | ok a c' => exact .inr ⟨a, c', rfl, by simpa [hx] using h⟩
  | error e' c' => exact .inl (by simpa [hx] using h)

@[simp] theorem require_run (ok : Bool) (e : Err) (c : Engine) :
    (require ok e).run c = if ok then .ok () c else .error (.raise e) c := by
  cases ok <;> rfl

@[simp] theorem requireStream_run (c : Engine) :
    requireStream.run c = if c.pstate = .idle then .error (.raise .noStream) c else .ok () c := by
  by_cases h : c.pstate = .idle <;> simp [requireStream, h]

/-! ### System memory -/

theorem memRead_run (a : Addr) (c : Engine) :
    (memRead a).run c =
      if c.platform.backs a then
        match c.mem.read a.toNat with
        | some b => .ok b c
        | none => .error (.fault (.unwrittenMem a)) c
      else .error (.wait (.unbacked a)) c := by
  simp only [memRead, EStateM.run_bind, EStateM.run_get]
  split
  · cases c.mem.read a.toNat <;> rfl
  · rfl

theorem memWrite_run (a : Addr) (b : Byte) (c : Engine) :
    (memWrite a b).run c =
      if c.platform.backs a then .ok () { c with mem := c.mem.write a.toNat b }
      else .error (.wait (.unbacked a)) c := by
  simp only [memWrite, EStateM.run_bind, EStateM.run_get]
  split <;> rfl

/-- A store by the core keeps memory canonical. -/
theorem memWrite_wf {a : Addr} {b : Byte} {c c' : Engine} (h : (memWrite a b).run c = .ok () c')
    (hw : Memory.wf c.mem = true) : Memory.wf c'.mem = true := by
  rw [memWrite_run] at h
  split at h
  · cases h
    exact Cells.wf_write _ _ _ hw
  · cases h

/-- A store by the host keeps memory canonical. -/
theorem Engine.hostStore_wf (c : Engine) (a : Addr) (b : Byte) (hw : Memory.wf c.mem = true) :
    Memory.wf (c.hostStore a b).mem = true := by
  unfold Engine.hostStore
  split
  · exact Cells.wf_write _ _ _ hw
  · exact hw

/-! ### Ports -/

theorem pullByte_run (c : Engine) :
    pullByte.run c = match c.ports.pullQ with
      | [] => .error (.wait .pull) c
      | .eof :: rest =>
          .error (.raise .srcExhausted)
            { c with ports := { c.ports with pullQ := rest, pullEnded := true, log := c.ports.log ++ [.pull .eof] } }
      | .byte b :: rest =>
          if c.ports.pullEnded then .error (.refuse .byteAfterEof) c
          else .ok b { c with ports := { c.ports with pullQ := rest, log := c.ports.log ++ [.pull (.byte b)] } } := by
  simp only [pullByte, EStateM.run_bind, EStateM.run_get]
  rcases c.ports.pullQ with _ | ⟨_ | _, rest⟩
  · rfl
  · simp only
    split <;> rfl
  · rfl

theorem pushByte_run (b : Byte) (c : Engine) :
    (pushByte b).run c =
      if c.ports.pushReady = 0 then .error (.wait (.push b)) c
      else .ok () { c with
        ports := { c.ports with pushReady := c.ports.pushReady - 1, log := c.ports.log ++ [.push b] } } := by
  simp only [pushByte, EStateM.run_bind, EStateM.run_get]
  cases c.ports.pushReady <;> rfl

theorem readDest_run (pos : Word) (c : Engine) :
    (readDest pos).run c = match c.ports.readDestQ with
      | [] => .error (.wait (.readDest pos)) c
      | b :: rest =>
          .ok b { c with ports := { c.ports with readDestQ := rest, log := c.ports.log ++ [.readDest pos b] } } := by
  simp only [readDest, EStateM.run_bind, EStateM.run_get]
  cases c.ports.readDestQ <;> rfl

/-! ### The source and the bit reader -/

theorem residentByte_run (c : Engine) :
    residentByte.run c =
      if c.srcPos = c.latch.srcLen then .error (.raise .srcExhausted) c
      else (memRead (c.latch.srcBase + c.srcPos)).run c := by
  simp only [residentByte, EStateM.run_bind, EStateM.run_get]
  split <;> rfl

theorem fetchSourceByte_run (c : Engine) :
    fetchSourceByte.run c =
      match (if c.latch.ctrl.srcPull then pullByte.run c else residentByte.run c) with
      | .ok b c' => .ok b { c' with srcPos := c'.srcPos + 1 }
      | .error e c' => .error e c' := by
  simp only [fetchSourceByte, EStateM.run_bind, EStateM.run_get]
  cases c.latch.ctrl.srcPull
  · simp only [Bool.false_eq_true, if_false, EStateM.run_bind]
    cases residentByte.run c <;> rfl
  · simp only [if_true, EStateM.run_bind]
    cases pullByte.run c <;> rfl

/-- The engine a piece of a command leaves, whether it returned or stopped. -/
def Cmd.after {α : Type} (x : Cmd α) (c : Engine) : Engine :=
  match x.run c with
  | .ok _ c' => c'
  | .error _ c' => c'

theorem Cmd.after_of_ok {α : Type} {x : Cmd α} {c c' : Engine} {a : α} (h : x.run c = .ok a c') : x.after c = c' := by
  simp [Cmd.after, h]

theorem Cmd.after_of_error {α : Type} {x : Cmd α} {c c' : Engine} {e : Stop} (h : x.run c = .error e c') :
    x.after c = c' := by
  simp [Cmd.after, h]

/-- A sequence of two pieces within a transitive frame stays within it. -/
theorem Cmd.after_bind {α β : Type} (R : Engine → Engine → Prop) (ht : ∀ {a b c}, R a b → R b c → R a c) (x : Cmd α)
    (f : α → Cmd β) (c : Engine) (hx : R c (x.after c)) (hf : ∀ a c', R c' ((f a).after c')) : R c ((x >>= f).after c) := by
  cases h : x.run c with
  | ok a c' =>
    rw [Cmd.after_of_ok h] at hx
    have : (x >>= f).after c = (f a).after c' := by simp [Cmd.after, EStateM.run_bind, h]
    rw [this]
    exact ht hx (hf a c')
  | error e c' =>
    rw [Cmd.after_of_error h] at hx
    have : (x >>= f).after c = c' := by simp [Cmd.after, EStateM.run_bind, h]
    rwa [this]

/-- What reading bits can change, whether it returns or stops: the bit reader and the pull port. -/
def BitFrame (c c' : Engine) : Prop :=
  c' = { c with
    bitacc := c'.bitacc, bitcnt := c'.bitcnt, srcPos := c'.srcPos
    ports := { c.ports with pullQ := c'.ports.pullQ, pullEnded := c'.ports.pullEnded, log := c'.ports.log } }

theorem BitFrame.refl (c : Engine) : BitFrame c c := rfl

theorem BitFrame.trans {a b c : Engine} (h : BitFrame a b) (h' : BitFrame b c) : BitFrame a c := by
  unfold BitFrame at *
  rw [h] at h'
  exact h'

theorem memRead_after (a : Addr) (c : Engine) : (memRead a).after c = c := by
  unfold Cmd.after
  rw [memRead_run]
  split
  · rename_i h
    split at h
    · split at h <;> simp_all
    · simp at h
  · rename_i h
    split at h
    · split at h <;> simp_all
    · simp_all

theorem residentByte_after (c : Engine) : residentByte.after c = c := by
  by_cases h : c.srcPos = c.latch.srcLen
  · simp [Cmd.after, residentByte_run, h]
  · have := memRead_after (c.latch.srcBase + c.srcPos) c
    simpa [Cmd.after, residentByte_run, h] using this

theorem pullByte_frame (c : Engine) : BitFrame c (pullByte.after c) := by
  unfold Cmd.after
  rw [pullByte_run]
  rcases c.ports.pullQ with _ | ⟨_ | _, rest⟩
  · exact rfl
  · dsimp only
    by_cases h : c.ports.pullEnded = true
    · rw [if_pos h]
      exact rfl
    · rw [if_neg h]
      exact rfl
  · exact rfl

theorem fetchSourceByte_frame (c : Engine) : BitFrame c (fetchSourceByte.after c) := by
  unfold Cmd.after
  rw [fetchSourceByte_run]
  by_cases hp : c.latch.ctrl.srcPull = true
  · rw [if_pos hp]
    have hf := pullByte_frame c
    cases h : pullByte.run c with
    | ok b c' => rw [Cmd.after_of_ok h] at hf; exact hf.trans rfl
    | error e c' => rw [Cmd.after_of_error h] at hf; exact hf
  · rw [if_neg hp]
    have hf := residentByte_after c
    cases h : residentByte.run c with
    | ok b c' => rw [Cmd.after_of_ok h] at hf; subst hf; exact rfl
    | error e c' => rw [Cmd.after_of_error h] at hf; subst hf; exact rfl

theorem refill_run (c : Engine) :
    refill.run c =
      if c.bitcnt = 0 then
        match fetchSourceByte.run c with
        | .ok b c' => .ok () { c' with bitacc := b.setWidth 32, bitcnt := 8 }
        | .error e c' => .error e c'
      else .ok () c := by
  simp only [refill, EStateM.run_bind, EStateM.run_get]
  split
  · rw [EStateM.run_bind]
    cases fetchSourceByte.run c <;> rfl
  · rfl

theorem takeBit_run (c : Engine) :
    takeBit.run c = .ok (c.bitacc.getLsbD 0) { c with bitacc := c.bitacc >>> 1, bitcnt := c.bitcnt - 1 } := rfl

theorem getBit_run (c : Engine) :
    getBit.run c = match refill.run c with
      | .ok () c' => .ok (c'.bitacc.getLsbD 0) { c' with bitacc := c'.bitacc >>> 1, bitcnt := c'.bitcnt - 1 }
      | .error e c' => .error e c' := by
  rw [getBit, EStateM.run_bind]
  cases refill.run c <;> rfl

theorem getBit_frame (c : Engine) : BitFrame c (getBit.after c) := by
  refine Cmd.after_bind BitFrame BitFrame.trans _ _ c ?_ fun _ c' => rfl
  refine Cmd.after_bind BitFrame BitFrame.trans _ _ c rfl fun c₀ c' => ?_
  split
  · exact Cmd.after_bind BitFrame BitFrame.trans _ _ c' (fetchSourceByte_frame c') fun _ _ => rfl
  · exact rfl

theorem getBitsLoop_succ_run (k i : Nat) (v : Word) (c : Engine) :
    (getBitsLoop (k + 1) i v).run c = match getBit.run c with
      | .ok b c' => (getBitsLoop k (i + 1) (v ||| ((BitVec.ofBool b).setWidth 32 <<< i))).run c'
      | .error e c' => .error e c' := by
  rw [getBitsLoop, EStateM.run_bind]
  cases getBit.run c <;> rfl

theorem getBitsLoop_frame (k i : Nat) (v : Word) (c : Engine) : BitFrame c ((getBitsLoop k i v).after c) := by
  induction k generalizing i v c with
  | zero => exact rfl
  | succ k ih => exact Cmd.after_bind BitFrame BitFrame.trans _ _ c (getBit_frame c) fun b c' => ih _ _ c'

/-- Reading bits changes only the bit reader and the pull port, whether it returns or stops. -/
theorem getBits_frame (n : Nat) (c : Engine) : BitFrame c ((getBits n).after c) := getBitsLoop_frame n 0 0 c

/-! ### Internal memories -/

theorem treeEntry_run (s : Slot) (table : Cells (BitVec 9)) (i : Nat) (c : Engine) :
    (treeEntry s table i).run c = match table.read i with
      | some v => .ok v c
      | none => .error (.fault (.unwrittenTree s)) c := by
  unfold treeEntry
  cases table.read i <;> rfl

theorem treeEntry_after (s : Slot) (table : Cells (BitVec 9)) (i : Nat) (c : Engine) :
    (treeEntry s table i).after c = c := by
  unfold Cmd.after
  rw [treeEntry_run]
  cases table.read i <;> rfl

theorem decodeLoop_succ_run (s : Slot) (t : Tree) (k l code first index : Nat) (c : Engine) :
    (decodeLoop s t (k + 1) l code first index).run c = match getBit.run c with
      | .error e c' => .error e c'
      | .ok b c' => match t.count.read l with
        | none => .error (.fault (.unwrittenTree s)) c'
        | some n =>
          if 2 * code + b.toNat - first < n.toNat then
            (treeEntry s t.trans (index + (2 * code + b.toNat - first))).run c'
          else (decodeLoop s t k (l + 1) (2 * code + b.toNat) (2 * (first + n.toNat)) (index + n.toNat)).run c' := by
  rw [decodeLoop, EStateM.run_bind]
  cases getBit.run c with
  | error e c' => rfl
  | ok b c' =>
    simp only [EStateM.run_bind, treeEntry_run]
    cases t.count.read l with
    | none => rfl
    | some n =>
      simp only
      split <;> simp [treeEntry_run]

theorem decodeLoop_frame (s : Slot) (t : Tree) (k l code first index : Nat) (c : Engine) :
    BitFrame c ((decodeLoop s t k l code first index).after c) := by
  induction k generalizing l code first index c with
  | zero => exact rfl
  | succ k ih =>
    refine Cmd.after_bind BitFrame BitFrame.trans _ _ c (getBit_frame c) fun b c' => ?_
    refine Cmd.after_bind BitFrame BitFrame.trans _ _ c' ?_ fun n c'' => ?_
    · rw [treeEntry_after]
      exact rfl
    · show BitFrame c'' (Cmd.after (if _ then _ else _) c'')
      split
      · rw [treeEntry_after]
        exact rfl
      · exact ih _ _ _ _ c''

/-- Decoding a symbol changes only the bit reader and the pull port, whether it returns or stops. -/
theorem decodeSymbol_frame (s : Slot) (c : Engine) : BitFrame c ((decodeSymbol s).after c) := by
  refine Cmd.after_bind BitFrame BitFrame.trans _ _ c rfl fun c₀ c' => ?_
  refine Cmd.after_bind BitFrame BitFrame.trans _ _ c' ?_ fun _ c'' => decodeLoop_frame _ _ _ _ _ _ _ c''
  cases h : (c₀.tree s).valid <;> simp [Cmd.after, BitFrame]

theorem lenRead_run (i : Nat) (c : Engine) :
    (lenRead i).run c = match c.len.read i with
      | some v => .ok v c
      | none => .error (.fault (.unwrittenLen i)) c := by
  simp only [lenRead, EStateM.run_bind, EStateM.run_get]
  cases c.len.read i <;> rfl

theorem lenWrite_run (i : Nat) (v : BitVec 4) (c : Engine) :
    (lenWrite i v).run c = .ok () { c with len := c.len.write i v } := rfl

theorem ringRead_run (i : Nat) (c : Engine) :
    (ringRead i).run c = match c.ring.read i with
      | some v => .ok v c
      | none => .error (.fault (.unwrittenRing i)) c := by
  simp only [ringRead, EStateM.run_bind, EStateM.run_get]
  cases c.ring.read i <;> rfl

theorem buildTree_run (s : Slot) (ls : List (BitVec 4)) (c : Engine) :
    (buildTree s ls).run c =
      if overSubscribed ls then .error (.raise .treeOversub) (c.setTree s (failedTree (c.tree s)))
      else .ok () (c.setTree s (builtTree (c.tree s) ls)) := by
  simp only [buildTree, EStateM.run_bind, EStateM.run_get]
  split <;> rfl

/-! ### Emitting and history -/

theorem emitResident_run (b : Byte) (c : Engine) :
    (emitResident b).run c =
      if c.latch.ctrl.dstRes then
        if c.platform.backs (c.latch.dstBase + c.dstPos) then
          .ok () { c with mem := c.mem.write (c.latch.dstBase + c.dstPos).toNat b, dstPos := c.dstPos + 1 }
        else .error (.wait (.unbacked (c.latch.dstBase + c.dstPos))) c
      else .ok () c := by
  cases h : c.latch.ctrl.dstRes <;> cases h' : c.platform.backs (c.latch.dstBase + c.dstPos) <;>
    simp [emitResident, h, h', memWrite_run]

theorem emitPush_run (b : Byte) (c : Engine) :
    (emitPush b).run c = if c.latch.ctrl.dstPush then (pushByte b).run c else .ok () c := by
  cases h : c.latch.ctrl.dstPush <;> simp [emitPush, h]

theorem emitRing_run (b : Byte) (c : Engine) :
    (emitRing b).run c = if c.latch.ringCap = 0 then .ok () c else (ringWrite b).run c := by
  simp only [emitRing, EStateM.run_bind, EStateM.run_get]
  split <;> rfl

theorem ringWrite_run (b : Byte) (c : Engine) :
    (ringWrite b).run c = .ok () { c with
      ring := c.ring.write c.ringIdx.toNat b
      ringIdx := BitVec.ofNat 16 ((c.ringIdx.toNat + 1) % c.latch.ringCap.toNat)
      ringFill := BitVec.ofNat 16 (min (c.ringFill.toNat + 1) c.latch.ringCap.toNat) } := rfl

/-- Everything emitting a byte can do: wait at the resident destination with nothing done, wait at the push port with the resident
write done, or return with every effect done. -/
theorem emit_run (b : Byte) (c : Engine) :
    (emit b).run c = match (emitResident b).run c with
      | .error e c' => .error e c'
      | .ok () c' => match (emitPush b).run c' with
        | .error e c'' => .error e c''
        | .ok () c'' => match (emitRing b).run c'' with
          | .error e c₃ => .error e c₃
          | .ok () c₃ => .ok () { c₃ with
              ckState := c₃.ckKind.update c₃.ckState b
              outCount := c₃.outCount + 1
              outSat := BitVec.ofNat 16 (min (c₃.outSat.toNat + 1) 32768) } := by
  rw [emit, EStateM.run_bind]
  cases (emitResident b).run c with
  | error e c' => rfl
  | ok a c' =>
    simp only [EStateM.run_bind]
    cases (emitPush b).run c' with
    | error e c'' => rfl
    | ok a c'' =>
      simp only
      cases (emitRing b).run c'' <;> rfl

theorem histRead_run (d : Nat) (c : Engine) :
    (histRead d).run c =
      if c.latch.ctrl.dstRes && decide (d ≤ c.dstPos.toNat) then
        (memRead (c.latch.dstBase + c.dstPos - BitVec.ofNat 32 d)).run c
      else if decide (c.latch.ringCap ≠ 0) && decide (d ≤ c.ringFill.toNat) then (ringRead (c.ringPlace d)).run c
      else (readDest (c.outCount - BitVec.ofNat 32 d)).run c := by
  simp only [histRead, EStateM.run_bind, EStateM.run_get]
  split
  · rfl
  · split <;> rfl

theorem copyLoop_succ_run (d n : Nat) (c : Engine) :
    (copyLoop d (n + 1)).run c = match (histRead d).run c with
      | .error e c' => .error e c'
      | .ok b c' => match (emit b).run c' with
        | .error e c'' => .error e c''
        | .ok () c'' => (copyLoop d n).run c'' := by
  rw [copyLoop, EStateM.run_bind]
  cases (histRead d).run c with
  | error e c' => rfl
  | ok b c' =>
    simp only [EStateM.run_bind]
    cases (emit b).run c' <;> rfl

/-! ### The sequencer -/

theorem stepOnce_run (c : Engine) :
    stepOnce.run c = match c.pstate with
      | .hdr => (readHeader >>= fun _ => pure 0 : Cmd Nat).run c
      | .stored => storedStep.run c
      | .huff => huffStep.run c
      | .copy => copyStep.run c
      | .trailer => (readTrailer >>= fun _ => pure 0 : Cmd Nat).run c
      | .idle | .done | .dataError | .checksumError | .sourceExhausted => .ok 0 c := by
  cases h : c.pstate <;> simp [stepOnce, h]

theorem stepLoop_succ_run (ecap k produced : Nat) (c : Engine) :
    (stepLoop ecap (k + 1) produced).run c =
      if c.pstate = .done ∨ produced = ecap then .ok (some (BitVec.ofNat 32 produced)) c
      else
        match stepOnce.run c with
        | .ok n c' => (stepLoop ecap k (produced + n)).run c'
        | .error (.raise e) c' =>
            .ok (some (BitVec.ofNat 32 produced)) (c'.takeStepError e e.terminal (BitVec.ofNat 32 produced))
        | .error stop c' => .error stop c' := rfl

/-! ### Running a command -/

/-- Everything a command can end in. -/
theorem runCmd_cases (i : Instr) (body : Cmd (Option Word)) (s : State) (h : i.wf = true) :
    (∃ r c, body.run { s.toEngine with err := .none } = .ok r c ∧
      runCmd i body s = .next (s.complete { c with result := r.getD c.result })) ∨
    (∃ e c, body.run { s.toEngine with err := .none } = .error (.raise e) c ∧
      runCmd i body s = .next (s.complete (c.takeError e))) ∨
    (∃ w c, body.run { s.toEngine with err := .none } = .error (.wait w) c ∧
      runCmd i body s = .next (s.suspend i { s.toEngine with err := .none } c w)) ∨
    (∃ f c, body.run { s.toEngine with err := .none } = .error (.fault f) c ∧ runCmd i body s = .fault f) ∨
    (∃ r c, body.run { s.toEngine with err := .none } = .error (.refuse r) c ∧ runCmd i body s = .refused r) := by
  cases hb : body.run { s.toEngine with err := .none } with
  | ok r c => exact .inl ⟨r, c, rfl, by simp [runCmd, h, hb]⟩
  | error e c =>
    cases e with
    | raise e => exact .inr (.inl ⟨e, c, rfl, by simp [runCmd, h, hb]⟩)
    | wait w => exact .inr (.inr (.inl ⟨w, c, rfl, by simp [runCmd, h, hb]⟩))
    | fault f => exact .inr (.inr (.inr (.inl ⟨f, c, rfl, by simp [runCmd, h, hb]⟩)))
    | refuse r => exact .inr (.inr (.inr (.inr ⟨r, c, rfl, by simp [runCmd, h, hb]⟩)))

theorem runCmd_of_ok {i : Instr} {body : Cmd (Option Word)} {s : State} {r : Option Word} {c : Engine} (h : i.wf = true)
    (hb : body.run { s.toEngine with err := .none } = .ok r c) :
    runCmd i body s = .next (s.complete { c with result := r.getD c.result }) := by
  simp [runCmd, h, hb]

theorem runCmd_of_raise {i : Instr} {body : Cmd (Option Word)} {s : State} {e : Err} {c : Engine} (h : i.wf = true)
    (hb : body.run { s.toEngine with err := .none } = .error (.raise e) c) :
    runCmd i body s = .next (s.complete (c.takeError e)) := by
  simp [runCmd, h, hb]

theorem runCmd_of_wait {i : Instr} {body : Cmd (Option Word)} {s : State} {w : Waiting} {c : Engine} (h : i.wf = true)
    (hb : body.run { s.toEngine with err := .none } = .error (.wait w) c) :
    runCmd i body s = .next (s.suspend i { s.toEngine with err := .none } c w) := by
  simp [runCmd, h, hb]

/-- An illegal operand raises before any other effect. -/
theorem runCmd_illegal (i : Instr) (body : Cmd (Option Word)) (s : State) (h : i.wf = false) :
    runCmd i body s = .next (s.complete (({ s.toEngine with err := .none } : Engine).takeError .illegalCmd)) := by
  simp [runCmd, h]

/-- A command in progress is the one that was given, started from the accepted engine. -/
theorem runCmd_running {i : Instr} {body : Cmd (Option Word)} {s t : State} (h : runCmd i body s = .next t) :
    t.running = none ∧ t.busy = false ∨
      ∃ w, t.running = some ⟨i, { s.toEngine with err := .none }, w⟩ ∧ t.busy = true := by
  unfold runCmd at h
  dsimp only at h
  split at h
  · split at h
    · cases h; exact .inl ⟨rfl, rfl⟩
    · cases h; exact .inl ⟨rfl, rfl⟩
    · cases h; exact .inr ⟨_, rfl, rfl⟩
    · cases h
    · cases h
  · cases h; exact .inl ⟨rfl, rfl⟩

/-- What a command leaves outside the engine, `BUSY` and the command in progress: everything. -/
theorem runCmd_outside {i : Instr} {body : Cmd (Option Word)} {s t : State} (h : runCmd i body s = .next t) :
    t.drop = s.drop ∧ t.hostq = s.hostq ∧ t.busReads = s.busReads := by
  unfold runCmd at h
  dsimp only at h
  split at h
  · split at h
    · cases h; exact ⟨rfl, rfl, rfl⟩
    · cases h; exact ⟨rfl, rfl, rfl⟩
    · cases h; exact ⟨rfl, rfl, rfl⟩
    · cases h
    · cases h
  · cases h; exact ⟨rfl, rfl, rfl⟩

/-- Every arm of `exec` runs one body under `runCmd`. -/
theorem exec_runCmd (i : Instr) : ∃ body : Cmd (Option Word), ∀ s, exec i s = runCmd i body s := by
  cases i <;>
    simp only [exec, execNop, execInit, execStep, execGetbits, execGetbyte, execAlign, execCkinit, execCkset, execCkbyte,
      execLenw, execLenr, execBuild, execFixed, execDecode, execPut, execGet, execCopy, execPreload] <;>
    exact ⟨_, fun _ => rfl⟩

/-! ### The host's side -/

theorem deliver_idle (f : Engine → Engine) (s : State) (h : s.running = none) :
    deliver f s = .next { s with toEngine := f s.toEngine } := by
  simp [deliver, h]

theorem deliver_running (f : Engine → Engine) (s : State) (r : Running) (h : s.running = some r) :
    deliver f s = exec r.instr { s with toEngine := f r.start } := by
  simp [deliver, h]

theorem hostWait_over (s : State) (h : s.busy = false) : hostWait s = .next s := by
  simp [hostWait, h]

theorem firstBesideProgram_none (acts : List HostAction) (h : ∀ act ∈ acts, act.besideProgram = none) :
    firstBesideProgram acts = none := by
  induction acts with
  | nil => rfl
  | cons act rest ih =>
    simp [firstBesideProgram, h act (by simp), ih fun a ha => h a (by simp [ha])]

theorem firstBesideProgram_append (before after : List HostAction) (act : HostAction)
    (f : State → Host.Outcome State Fault Refusal) (h : ∀ a ∈ before, a.besideProgram = none)
    (hf : act.besideProgram = some f) :
    firstBesideProgram (before ++ act :: after) = some (f, before ++ after) := by
  induction before with
  | nil => simp [firstBesideProgram, hf]
  | cons a rest ih =>
    simp [firstBesideProgram, h a (by simp), ih fun b hb => h b (by simp [hb])]

theorem step_quiet (s : State) (h : s.hostq = []) : step s = .next s := by
  simp [step, h]

theorem step_act (s : State) (act : HostAction) (rest : List HostAction) (h : s.hostq = act :: rest) :
    step s = hostAct act { s with hostq := rest } := by
  simp [step, h]

/-- The four lanes of a word are that word again. -/
@[simp] theorem wordOfLanes_lanesOf (w : Word) : wordOfLanes (lanesOf w) = some w := by
  simp only [lanesOf, wordOfLanes, Option.some.injEq]
  ext i hi
  simp only [BitVec.getElem_append, BitVec.getElem_extractLsb']
  split
  · simp [BitVec.getLsbD_eq_getElem hi]
  · split
    · rw [BitVec.getLsbD_eq_getElem (by omega)]
      congr 1
      omega
    · split
      · rw [BitVec.getLsbD_eq_getElem (by omega)]
        congr 1
        omega
      · rw [BitVec.getLsbD_eq_getElem (by omega)]
        congr 1
        omega

end Machine

end Sys2Proof
end

