-- ==== Sys2Proof/Laws/PerInstr.lean ====
section
/-! SUPPORT. What holds of every command as syntax, one lemma per constructor. -/

namespace Sys2Proof.Laws.Opcode

/-- The word of a command carries its opcode in bits 31 to 26 (30_encoding.md R91, R94). -/
def Statement (i : Instr) : Prop := opcodeOf (encode i) = i.opcode

theorem opcodeOf_append (o : BitVec 6) (f : BitVec 26) : opcodeOf (o ++ f) = o := by
  ext i hi
  have h : ¬ 26 + i < 26 := by omega
  simp only [opcodeOf, BitVec.getElem_extractLsb']
  refine (BitVec.getLsbD_append (x := o) (y := f) (i := 26 + i)).trans ?_
  simp [h, BitVec.getLsbD_eq_getElem hi]

theorem nop : Statement .nop := opcodeOf_append _ _

theorem init : Statement .init := opcodeOf_append _ _

theorem step (cap : BitVec 26) : Statement (.step cap) := opcodeOf_append _ _

theorem getbits (n : BitVec 6) : Statement (.getbits n) := opcodeOf_append _ _

theorem getbyte : Statement .getbyte := opcodeOf_append _ _

theorem align : Statement .align := opcodeOf_append _ _

theorem ckinit (kind : BitVec 2) : Statement (.ckinit kind) := opcodeOf_append _ _

theorem ckset (kind : BitVec 2) : Statement (.ckset kind) := opcodeOf_append _ _

theorem ckbyte (b : Byte) : Statement (.ckbyte b) := opcodeOf_append _ _

theorem lenw (idx : BitVec 9) (len : BitVec 4) : Statement (.lenw idx len) := opcodeOf_append _ _

theorem lenr (idx : BitVec 9) : Statement (.lenr idx) := opcodeOf_append _ _

theorem build (slot : BitVec 2) (base : BitVec 9) (num : BitVec 9) : Statement (.build slot base num) := opcodeOf_append _ _

theorem fixed : Statement .fixed := opcodeOf_append _ _

theorem decode (slot : BitVec 2) : Statement (.decode slot) := opcodeOf_append _ _

theorem put (b : Byte) : Statement (.put b) := opcodeOf_append _ _

theorem get (dist : BitVec 16) : Statement (.get dist) := opcodeOf_append _ _

theorem copy (len : BitVec 9) (dist : BitVec 16) : Statement (.copy len dist) := opcodeOf_append _ _

theorem preload (b : Byte) : Statement (.preload b) := opcodeOf_append _ _

end Sys2Proof.Laws.Opcode
end

