-- ==== Sys2Proof/Tests/Slice0.lean ====
section
/-! SUPPORT. The model's own tests. Expected values come from the spec: the encodings of 30_encoding.md, the vectors of
95_test_vectors.md and the examples of the rules. The second half shows for each statement a state and operands that meet
its hypotheses together. -/

namespace Sys2Proof.Tests

open Sys2Proof.Machine

/- One kernel evaluation at a time: in parallel their threads' stacks fill the memory limit of the check. -/
set_option Elab.async false

/-! ### Small states -/

/-- The state a command leaves. -/
def after (i : Instr) (s : State) : State :=
  match exec i s with
  | .next t => t
  | _ => s

/-- The command completes without error. -/
def completes (i : Instr) (s : State) : Bool :=
  match exec i s with
  | .next t => !t.busy && decide (t.err = .none)
  | _ => false

/-- The command answers a next state. -/
def answers (i : Instr) (s : State) : Bool :=
  match exec i s with
  | .next _ => true
  | _ => false

theorem eq_after {i : Instr} {s : State} (h : answers i s = true) : exec i s = .next (after i s) := by
  unfold answers at h
  unfold after
  cases he : exec i s <;> simp_all

theorem answers_of_completes {i : Instr} {s : State} (h : completes i s = true) : answers i s = true := by
  unfold completes at h
  unfold answers
  cases he : exec i s <;> simp_all

theorem ok_after {i : Instr} {s : State} (h : completes i s = true) : exec i s = .next (after i s) ∧ (after i s).ok := by
  refine ⟨eq_after (answers_of_completes h), ?_⟩
  unfold completes at h
  unfold after State.ok
  cases he : exec i s <;> simp_all

/-- The state one step leaves. -/
def stepped (s : State) : State :=
  match step s with
  | .next t => t
  | _ => s

/-- Bytes from an address on. -/
def bytesAt (base : Nat) (bytes : List Byte) : Memory := bytes.zipIdx.map fun p => (base + p.2, p.1)

/-- Reset, then the registers and the memory of a stream: source at 0x1000, destination at 0x4000. -/
def configured (ctrl : Word) (cap : BitVec 16) (dstLen : Word) (src : List Byte) : State :=
  { State.reset with toEngine := { Engine.reset with
      ctrl := Ctrl.ofWord ctrl, ringCapReg := cap
      srcBase := 0x1000, srcLen := BitVec.ofNat 32 src.length, dstBase := 0x4000, dstLen := dstLen
      mem := bytesAt 0x1000 src } }

/-- The same after `INIT`. -/
def stream (ctrl : Word) (cap : BitVec 16) (dstLen : Word) (src : List Byte) : State :=
  after .init (configured ctrl cap dstLen src)

/-- A change of the engine only. -/
def withEngine (s : State) (f : Engine → Engine) : State := { s with toEngine := f s.toEngine }

/-- The lengths of 95_test_vectors.md T3 in `LEN`. -/
def t3Lens : Cells (BitVec 4) := [(0, 3), (1, 3), (2, 3), (3, 3), (4, 3), (5, 2), (6, 4), (7, 4)]

/-- The state of 95_test_vectors.md T3 before the build. -/
def t3 : State := withEngine (stream 0 0 0 [0xE8, 0x73]) fun c => { c with len := t3Lens }

/-- The state of 95_test_vectors.md T5 after its first two commands. -/
def t5 : State := after (.put 0x62) (after (.put 0x61) (stream 0x06 0 8 []))

/-- A ring of 8 bytes with the dictionary "abc" and the push port, as in 95_test_vectors.md P4. -/
def p4 : State :=
  withEngine (after (.preload 0x63) (after (.preload 0x62) (after (.preload 0x61) (stream 0x0A 8 0 [])))) fun c =>
    { c with ports := { c.ports with pushReady := 20 } }

/-! ### WellFormed: an ill-formed term for each check of 30_encoding.md R95 -/

theorem test_wf_getbits : (Instr.getbits 33).wf = false ∧ (Instr.getbits 32).wf = true := by decide

theorem test_wf_ckinit : (Instr.ckinit 3).wf = false ∧ (Instr.ckinit 2).wf = true := by decide

theorem test_wf_ckset : (Instr.ckset 3).wf = false ∧ (Instr.ckset 2).wf = true := by decide

theorem test_wf_lenw : (Instr.lenw 320 1).wf = false ∧ (Instr.lenw 319 15).wf = true := by decide

theorem test_wf_lenr : (Instr.lenr 320).wf = false ∧ (Instr.lenr 319).wf = true := by decide

theorem test_wf_build_slot : (Instr.build 3 0 1).wf = false := by decide

theorem test_wf_build_empty : (Instr.build 0 0 0).wf = false := by decide

theorem test_wf_build_capacity :
    (Instr.build 0 0 289).wf = false ∧ (Instr.build 1 0 33).wf = false ∧ (Instr.build 2 0 20).wf = false ∧
      (Instr.build 0 0 288).wf = true ∧ (Instr.build 1 0 32).wf = true ∧ (Instr.build 2 0 19).wf = true := by decide

theorem test_wf_build_range : (Instr.build 0 33 288).wf = false ∧ (Instr.build 0 32 288).wf = true := by decide

theorem test_wf_decode : (Instr.decode 3).wf = false ∧ (Instr.decode 2).wf = true := by decide

theorem test_wf_copy :
    (Instr.copy 0 1).wf = false ∧ (Instr.copy 259 1).wf = false ∧ (Instr.copy 258 0).wf = true := by decide

/-! ### Decode: words written out from 30_encoding.md R92 and R94 -/

/-- The decoder gives this command for this word. -/
def decodesTo (w : Word) (i : Instr) : Bool :=
  match decode w with
  | .ok j => decide (j = i)
  | .error _ => false

/-- The decoder rejects the word for this reason. -/
def rejects (w : Word) (r : Reject) : Bool :=
  match decode w with
  | .ok _ => false
  | .error q => decide (q = r)

theorem test_decode_nop : decodesTo 0b00000000000000000000000000000000#32 .nop = true := by decide

theorem test_decode_init : decodesTo 0b00000100000000000000000000000000#32 .init = true := by decide

theorem test_decode_step : decodesTo 0b00001000000000000000001111101000#32 (.step 1000) = true := by decide

theorem test_decode_getbits : decodesTo 0b00100000000000000000000000000111#32 (.getbits 7) = true := by decide

theorem test_decode_getbyte : decodesTo 0b00100100000000000000000000000000#32 .getbyte = true := by decide

theorem test_decode_align : decodesTo 0b00101000000000000000000000000000#32 .align = true := by decide

theorem test_decode_ckinit : decodesTo 0b01000000000000000000000000000010#32 (.ckinit 2) = true := by decide

theorem test_decode_ckset : decodesTo 0b01000100000000000000000000000001#32 (.ckset 1) = true := by decide

theorem test_decode_ckbyte : decodesTo 0b01001000000000000000000001100001#32 (.ckbyte 0x61) = true := by decide

theorem test_decode_lenw : decodesTo 0b01100000000000000001111100111111#32 (.lenw 319 15) = true := by decide

theorem test_decode_lenr : decodesTo 0b01100100000000000000000100111111#32 (.lenr 319) = true := by decide

theorem test_decode_build : decodesTo 0b01101000000001000000101000011110#32 (.build 1 5 30) = true := by decide

theorem test_decode_fixed : decodesTo 0b01101100000000000000000000000000#32 .fixed = true := by decide

theorem test_decode_decode : decodesTo 0b01110000000000000000000000000010#32 (.decode 2) = true := by decide

theorem test_decode_put : decodesTo 0b10000000000000000000000001100010#32 (.put 0x62) = true := by decide

theorem test_decode_get : decodesTo 0b10000100000000001000000000000001#32 (.get 0x8001) = true := by decide

theorem test_decode_copy : decodesTo 0b10001000000001010000000000000010#32 (.copy 5 2) = true := by decide

theorem test_decode_preload : decodesTo 0b10001100000000000000000001100100#32 (.preload 0x64) = true := by decide

/-- 95_test_vectors.md T9, reserved opcodes. -/
theorem test_reject_reserved :
    ([0x0C000000#32, 0x1C000000#32, 0x2C000000#32, 0x3C000000#32, 0x4C000000#32, 0x5C000000#32, 0x74000000#32, 0x7C000000#32,
      0x90000000#32, 0xFC000000#32].all fun w => rejects w .reservedOpcode) = true := by decide

/-- 95_test_vectors.md T9, the lowest must-be-zero bit of each command. -/
theorem test_reject_must_be_zero :
    ([0x00000001#32, 0x04000001#32, 0x20000040#32, 0x24000001#32, 0x28000001#32, 0x40000004#32, 0x44000004#32, 0x48000100#32,
      0x60002000#32].all fun w => rejects w .mustBeZero) = true ∧
    ([0x64000200#32, 0x68100000#32, 0x6C000001#32, 0x70000004#32, 0x80000100#32, 0x84010000#32, 0x8A000000#32,
      0x8C000100#32].all fun w => rejects w .mustBeZero) = true := by decide

/-- 95_test_vectors.md T9, illegal operand values. -/
theorem test_reject_operand :
    ([0x20000021#32, 0x40000003#32, 0x44000003#32, 0x60000340#32, 0x64000140#32, 0x680C0001#32, 0x68000000#32].all fun w =>
      rejects w .illegalOperand) = true ∧
    ([0x68080014#32, 0x68040021#32, 0x6800C920#32, 0x70000003#32, 0x88000001#32, 0x89030001#32].all fun w =>
      rejects w .illegalOperand) = true := by decide

/-- The host's fixed name gives the decoder's answer. -/
theorem test_decode_table_word : decodeTableWord 32 0x0BFFFFFF = some (.step 0x3FFFFFF) := by decide

/-! ### One step of each command -/

/-- 44_inflate.md R220: `ERR` 5 before, 0 after; `RESULT` stays. -/
theorem test_nop :
    (after .nop (withEngine State.reset fun c => { c with err := .invalidCode, result := 7 })).err = .none ∧
    (after .nop (withEngine State.reset fun c => { c with err := .invalidCode, result := 7 })).result = 7 := by decide +kernel

/-- 44_inflate.md R222: `CTRL` 0x86. -/
theorem test_init :
    (stream 0x86 0 0 []).pstate = .hdr ∧ (stream 0x86 0 0 []).ckState = 0xFFFFFFFF#32 ∧
    (stream 0x86 0 0 []).regRead 0x2C = 0 ∧ (stream 0x86 0 0 []).regRead 0x58 = 0x86 := by decide +kernel

/-- 95_test_vectors.md T6: the stored block "xyz". -/
theorem test_step_stored_block :
    let t := after (.step 1000) (stream 0x06 0 16 [0x01, 0x03, 0x00, 0xFC, 0xFF, 0x78, 0x79, 0x7A])
    t.result = 3 ∧ t.pstate = .done ∧ t.btype = 0 ∧ t.regRead 0x2C = 0xEB8EBA67#32 ∧
      (List.range 4).map (fun k => t.mem.read (0x4000 + k)) = [some 0x78, some 0x79, some 0x7A, none] := by decide +kernel

/-- 95_test_vectors.md T7: the dynamic block "aaaab", with its Adler-32. -/
theorem test_step_dynamic_block :
    let t := after (.step 1000) (stream 0x05 0 16
      [0x0D, 0xC0, 0x81, 0x00, 0x00, 0x00, 0x00, 0x80, 0x20, 0xD6, 0xF7, 0x87, 0xF8, 0x98, 0x01])
    t.pstate = .done ∧ t.regRead 0x2C = 0x05B501E7#32 ∧
      (List.range 5).map (fun k => t.mem.read (0x4000 + k)) = [some 0x61, some 0x61, some 0x61, some 0x61, some 0x62] := by
  decide +kernel

/-- 95_test_vectors.md T2, row 1. -/
theorem test_getbits :
    let t := after (.getbits 3) (stream 0 0 0 [0xA5, 0x3C, 0xFF, 0x01])
    t.result = 5 ∧ t.bitcnt = 5 ∧ t.bitacc = 0x14 ∧ t.srcPos = 1 := by decide +kernel

/-- 95_test_vectors.md T2, row 6: the source ends inside the read. -/
theorem test_getbits_exhausted :
    let t := after (.getbits 9) (stream 0 0 0 [0x01])
    t.result = 0 ∧ t.err = .srcExhausted ∧ t.bitcnt = 0 ∧ t.srcPos = 1 ∧ t.pstate = .hdr := by decide +kernel

/-- 40_bitreader.md R128: with 3 bits held it does not realign. The bits are the low 3 of 0xFF, then the low 5 of 0x01. -/
theorem test_getbyte :
    let t := after .getbyte (withEngine (stream 0 0 0 [0x01]) fun c => { c with bitacc := 7, bitcnt := 3 })
    t.result = 0x0F ∧ t.bitcnt = 3 ∧ t.bitacc = 0 := by decide +kernel

/-- 40_bitreader.md R129. -/
theorem test_align :
    let t := after .align (withEngine (stream 0 0 0 [0x01]) fun c => { c with bitacc := 0x0F, bitcnt := 6 })
    t.bitacc = 0 ∧ t.bitcnt = 0 ∧ t.srcPos = 0 := by decide +kernel

/-- 95_test_vectors.md E10. -/
theorem test_ckinit :
    (after (.ckinit 1) State.reset).result = 1 ∧ (after (.ckinit 2) State.reset).ckState = 0xFFFFFFFF#32 ∧
    (after (.ckinit 2) State.reset).result = 0 := by decide +kernel

/-- 95_test_vectors.md T1: `wr DATA, 0x12345678; ckset crc`, and `ckset none`. -/
theorem test_ckset :
    (after (.ckset 2) (withEngine State.reset fun c => { c with data := 0x12345678#32 })).result = 0xEDCBA987#32 ∧
    (after (.ckset 0) (withEngine State.reset fun c => { c with data := 0x12345678#32 })).ckState = 0 := by decide +kernel

/-- 95_test_vectors.md E2: CRC-32 of "ab" goes on with "c". -/
theorem test_ckbyte_crc :
    (after (.ckbyte 0x63) (withEngine State.reset fun c => { c with ckKind := .crc, ckState := 0x617CB792#32 })).result
      = 0x352441C2#32 := by decide +kernel

/-- 95_test_vectors.md T1: loaded halves 0xFFF0 and the byte 0x10. -/
theorem test_ckbyte_adler :
    (after (.ckbyte 0x10) (withEngine State.reset fun c => { c with ckKind := .adler, ckState := 0xFFF0FFF0#32 })).ckState
      = 0x000E000F#32 := by decide +kernel

/-- 95_test_vectors.md T3: `lenw 319, 15`. -/
theorem test_lenw : (after (.lenw 319 15) State.reset).len = [(319, 15)] := by decide +kernel

/-- 95_test_vectors.md T3: `lenr 5` after T3's writes. -/
theorem test_lenr : (after (.lenr 5) t3).result = 2 := by decide +kernel

/-- 95_test_vectors.md T3. -/
theorem test_build :
    (after (.build 0 0 8) t3).lt.valid = true ∧
    (List.range 5).map (after (.build 0 0 8) t3).lt.count.read = [some 0, some 0, some 1, some 5, some 2] ∧
    (List.range 8).map (after (.build 0 0 8) t3).lt.trans.read
      = [some 5, some 0, some 1, some 2, some 3, some 4, some 6, some 7] := by decide +kernel

/-- 95_test_vectors.md T3: three symbols of length 1. -/
theorem test_build_oversubscribed :
    let t := after (.build 1 0 3) (withEngine State.reset fun c => { c with len := [(0, 1), (1, 1), (2, 1)] })
    t.err = .treeOversub ∧ t.dt.valid = false ∧ t.dt.count.read 1 = some 0 := by decide +kernel

/-- 95_test_vectors.md T4. -/
theorem test_fixed :
    (after .fixed State.reset).lt.count.read 9 = some 112 ∧ (after .fixed State.reset).lt.trans.read 24 = some 0 ∧
    (after .fixed State.reset).lt.trans.read 176 = some 144 ∧ (after .fixed State.reset).dt.trans.read 29 = some 29 ∧
    (after .fixed State.reset).ct.valid = false := by decide +kernel

/-- 95_test_vectors.md T3, the first two symbols. -/
theorem test_decode :
    let t := after (.decode 0) (after (.build 0 0 8) t3)
    t.result = 5 ∧ t.bitcnt = 6 ∧ (after (.decode 0) t).result = 0 ∧ (after (.decode 0) t).bitcnt = 3 := by decide +kernel

/-- 95_test_vectors.md T3: one symbol of length 1, source `FF FF FF`. -/
theorem test_decode_invalid_code :
    let s := withEngine (stream 0 0 0 [0xFF, 0xFF, 0xFF]) fun c => { c with len := [(0, 1)] }
    let t := after (.decode 1) (after (.build 1 0 1) s)
    t.err = .invalidCode ∧ t.srcPos = 2 ∧ t.bitcnt = 1 := by decide +kernel

/-- 95_test_vectors.md T5, row 1. -/
theorem test_put :
    let t := after (.put 0x61) (stream 0x06 0 8 [])
    t.mem.read 0x4000 = some 0x61 ∧ t.dstPos = 1 ∧ t.outCount = 1 ∧ t.regRead 0x2C = 0xE8B7BE43#32 := by decide +kernel

/-- 95_test_vectors.md T6: a full destination. -/
theorem test_put_full :
    (after (.put 0x63) (stream 0x04 0 0 [])).err = .destFull ∧ (after (.put 0x63) (stream 0x04 0 0 [])).outCount = 0 := by
  decide +kernel

/-- 43_window.md R203: `get 1` after two preloads. -/
theorem test_get : (after (.get 1) p4).result = 0x63 ∧ (after (.get 4) p4).err = .invalidDistance := by decide +kernel

/-- 95_test_vectors.md T5, rows 3 and 4. -/
theorem test_copy :
    let t := after (.copy 5 2) t5
    t.result = 5 ∧ t.dstPos = 7 ∧ t.regRead 0x2C = 0xE487AEF7#32 ∧ (after (.copy 2 1) t).err = .destFull ∧
      (after (.copy 2 1) t).dstPos = 7 := by decide +kernel

/-- 95_test_vectors.md P4: a copy from the dictionary reaches the push port. -/
theorem test_copy_dictionary :
    pushedBytes (after (.copy 3 4) (after (.put 0x78) p4)).ports.log = [0x78, 0x61, 0x62, 0x63] := by decide +kernel

/-- 95_test_vectors.md P4: the dictionary, and the late preload. -/
theorem test_preload :
    p4.ringFill = 3 ∧ p4.ringIdx = 3 ∧ p4.outCount = 0 ∧ p4.ring.read 0 = some 0x61 ∧
    (after (.preload 0x64) (after (.put 0x78) p4)).err = .illegalCmd := by decide +kernel

/-! ### The host's side -/

/-- 95_test_vectors.md P1's end state: `STATUS` after `ckinit adler` issued through `CMD`. -/
theorem test_step_command : (stepped (State.reset.withFetchWord 32 0x40000001)).statusWord = 0x00200000#32 := by decide +kernel

/-- 95_test_vectors.md T9: an illegal word through `CMD`. -/
theorem test_step_illegal :
    (stepped (State.reset.withFetchWord 32 0xFC000000)).err = .illegalCmd ∧
    (stepped (State.reset.withFetchWord 32 0xFC000000)).busy = false := by decide +kernel

/-- 10_state.md R22, R23: reserved values and the ring capacity. -/
theorem test_register_writes :
    (Ctrl.ofWord 0xFFFFFFFF#32).toWord = 0x3C#32 ∧ (State.reset.regWrite 0x08 0x12345#32).ringCapReg = 0x8000 := by
  decide +kernel

/-- 30_encoding.md R99. -/
theorem test_asm : asm (.copy 5 2) = "copy 5, 2" ∧ asm (.build 0 0 8) = "build lt, 0, 8" ∧ asm .nop = "nop" := by
  decide +kernel

/-! ### Witnesses: for each statement with hypotheses, a state and operands that meet them together -/

/-- The command is waiting after its step. -/
def waits (i : Instr) (s : State) : Bool :=
  match exec i s with
  | .next t => t.busy
  | _ => false

/-- The command has completed, with or without an error. -/
def ends (i : Instr) (s : State) : Bool :=
  match exec i s with
  | .next t => !t.busy
  | _ => false

theorem ends_after {i : Instr} {s : State} (h : ends i s = true) : exec i s = .next (after i s) ∧ (after i s).busy = false := by
  unfold ends at h
  unfold after
  cases he : exec i s <;> simp_all

theorem waits_after {i : Instr} {s : State} (h : waits i s = true) : exec i s = .next (after i s) ∧ (after i s).busy = true := by
  unfold waits at h
  unfold after
  cases he : exec i s <;> simp_all

/-- Every field of the engine's invariant as a test. -/
def invCheck (c : Engine) : Bool :=
  decide (c.bitcnt.toNat ≤ 7) && decide (c.bitacc.toNat < 2 ^ c.bitcnt.toNat) && decide (c.ringCapReg.toNat ≤ Config.ringMax)
    && decide (c.latch.ringCap.toNat ≤ Config.ringMax) && decide (c.ringFill.toNat ≤ c.latch.ringCap.toNat)
    && decide (c.latch.ringCap ≠ 0 → c.ringIdx.toNat < c.latch.ringCap.toNat)
    && decide (c.latch.ringCap = 0 → c.ringIdx = 0 ∧ c.ringFill = 0) && decide (c.lzRem.toNat ≤ 258)
    && decide (c.pstate = .copy →
        1 ≤ c.lzDist.toNat ∧ c.lzDist.toNat ≤ Config.windowMax ∧ c.covered c.lzDist.toNat = true)
    && decide (c.pstate ≠ .trailer) && decide (c.streamErr ≠ .none ↔ c.pstate.failed = true)
    && decide (c.pstate.failed = true → c.pstate = c.streamErr.terminal ∧ c.streamErr.fromStep = true)
    && decide (c.latch.ctrl.dstRes = true → c.dstPos.toNat ≤ c.latch.dstLen.toNat)
    && decide (c.latch.ctrl.dstRes = false → c.dstPos = 0) && decide (c.outSat.toNat ≤ Config.windowMax)
    && decide (c.latch.ctrl.dstRes = true → c.outSat.toNat = min c.dstPos.toNat Config.windowMax)
    && decide (c.latch.ctrl.srcPull = false → c.srcPos.toNat ≤ c.latch.srcLen.toNat)

theorem inv_of_check {c : Engine} (h : invCheck c = true) : c.Inv := by
  simp only [invCheck, Bool.and_eq_true, decide_eq_true_eq] at h
  obtain ⟨⟨⟨⟨⟨⟨⟨⟨⟨⟨⟨⟨⟨⟨⟨⟨h1, h2⟩, h3⟩, h4⟩, h5⟩, h6⟩, h7⟩, h8⟩, h9⟩, h10⟩, h11⟩, h12⟩, h13⟩, h14⟩, h15⟩, h16⟩, h17⟩ := h
  exact ⟨h1, h2, h3, h4, h5, h6, h7, h8, h9, h10, h11, h12, h13, h14, h15, h16, h17⟩

/-- Reset with these host actions pending. -/
def pending (acts : List HostAction) : State := { State.reset with hostq := acts }

theorem witness_DecodeInvertsEncode : (Instr.copy 258 0xFFFF).wf = true ∧ (Instr.build 0 32 288).wf = true := by decide

theorem witness_EncodeInvertsDecode : decode 0x88050002#32 = .ok (.copy 5 2) := by rfl

theorem witness_ReservedOpcodesAreRejected :
    rejects 0x0C000000#32 .reservedOpcode = true ∧ rejects 0x08000000#32 .reservedOpcode = false := by decide

theorem witness_MustBeZeroBitIsIllegal :
    (0x22#6, 0x02000000#32) ∈ [(0x21#6, 0x03FF0000#32), (0x22#6, 0x02000000#32)] ∧
    (0x8A000000#32).extractLsb' 26 6 = 0x22#6 ∧ 0x8A000000#32 &&& 0x02000000#32 ≠ (0 : Word) ∧
    (pending [State.reset.cmdAction 0x8A000000#32]).busy = false ∧
    (pending [State.reset.cmdAction 0x8A000000#32]).hostq
      = (pending [State.reset.cmdAction 0x8A000000#32]).cmdAction 0x8A000000#32 :: [] := by decide

theorem witness_StepRunsTheDecodedCommand :
    (pending [State.reset.cmdAction 0x04000000#32]).busy = false ∧
    (pending [State.reset.cmdAction 0x04000000#32]).hostq
      = (pending [State.reset.cmdAction 0x04000000#32]).cmdAction 0x04000000#32 :: [] ∧
    decodesTo 0x04000000#32 .init = true := by decide

/-- All hypotheses about a refused `PRELOAD` whose word is the next action. -/
def latePreload (s : State) : Bool :=
  let q : State := { s with hostq := [s.cmdAction 0x8C000064#32] }
  !q.busy && decide (q.hostq = q.cmdAction 0x8C000064#32 :: []) && decodesTo 0x8C000064#32 (.preload 0x64)
    && decide (q.pstate ≠ .idle) && decide (q.latch.ringCap = 0 ∨ q.pstate ≠ .hdr ∨ q.outSat ≠ 0)

/-- An illegal operand value; a `PRELOAD` without a ring, one outside `HDR`, and one after output. -/
theorem witness_IllegalCommandOnlyReports :
    (pending [State.reset.cmdAction 0x89030001#32]).busy = false ∧
    (pending [State.reset.cmdAction 0x89030001#32]).hostq
      = (pending [State.reset.cmdAction 0x89030001#32]).cmdAction 0x89030001#32 :: [] ∧
    rejects 0x89030001#32 .illegalOperand = true ∧
    latePreload (stream 0 0 0 []) = true ∧ latePreload (withEngine (stream 0 8 0 []) fun c => { c with pstate := .huff }) = true ∧
    latePreload (after (.put 1) (stream 0 8 0 [])) = true := by decide +kernel

/-- A short access, the last misaligned offset below `CMD`, `ID`, `STATUS`, the last offset of the window; then `DATA` and `CMD` while
busy; then a read past the map and one of `LCTRL`. -/
theorem witness_RegisterWindowAccessRules :
    (pending [.write 0x04 [1, 2, 3]]).hostq = [.write 0x04 [1, 2, 3]] ∧
    ((0x1F : Addr) - State.reset.platform.mmioBase).toNat % 4 ≠ 0 ∧
    ((0x00 : Addr) - State.reset.platform.mmioBase).toNat = 0 ∧
    0x24 ≤ ((0x24 : Addr) - State.reset.platform.mmioBase).toNat ∧
    ((0xFC : Addr) - State.reset.platform.mmioBase).toNat < 0x100 ∧
    ({ pending [wrReg 0 0x1C 7] with busy := true } : State).busy = true ∧
    ({ pending [wrReg 0 0x1C 7] with busy := true } : State).hostq = [wrReg State.reset.platform.mmioBase 0x1C 7] ∧
    ({ pending [wrReg 0 0x20 7] with busy := true } : State).hostq = [wrReg State.reset.platform.mmioBase 0x20 7] ∧
    (pending [.read 0x5C 4]).hostq = [.read 0x5C 4] ∧
    0x5C ≤ ((0x5C : Addr) - State.reset.platform.mmioBase).toNat ∧
    (pending [.read 0x58 4]).hostq = [.read 0x58 4] := by decide

theorem witness_RegisterWritesReadBack :
    (pending [wrReg 0 0x08 0x8001]).busy = false ∧
    (pending [wrReg 0 0x08 0x8001]).hostq = wrReg State.reset.platform.mmioBase 0x08 0x8001 :: [] := by decide

theorem witness_ResetInputRestoresResetValues : (pending [.reset]).hostq = .reset :: [] := rfl

/-- Source and destination that touch and do not overlap. -/
theorem witness_InitStartsAStream :
    (withEngine (configured 0x04 0 8 [1, 2]) fun c => { c with dstBase := 0x1002 }).toEngine.hostConfig.overlaps = false := by
  decide

/-- Slices that share one byte are refused, slices that touch are not. -/
theorem witness_InitRefusesSharedSlices :
    (withEngine (configured 0x04 0 8 [1, 2]) fun c => { c with dstBase := 0x1001 }).toEngine.hostConfig.overlaps = true ∧
    completes .init (withEngine (configured 0x04 0 8 [1, 2]) fun c => { c with dstBase := 0x1002 }) = true := by
  decide +kernel

theorem witness_CkinitAndCksetLoadTheAccumulator : (2 : BitVec 2) ≠ 3 ∧ (0 : BitVec 2) ≠ 3 := by decide

/-- A CRC-32 of "a" then "b". -/
def crcStart : State := after (.ckinit 2) State.reset

/-- The state from which the second part goes on: `DATA` is the running state after "a". -/
def crcResumed : State := withEngine State.reset fun c => { c with data := (after (.ckbyte 0x61) crcStart).ckState }

theorem witness_ChecksumIgnoresChunking :
    ∃ (x y : List Byte) (t u w : State), (2 : BitVec 2) ≠ 3 ∧ crcStart.ckKind.code = 2 ∧
      ((2 : BitVec 2) = 0 → crcStart.ckState = 0) ∧ RunsTo crcStart ((x ++ y).map .ckbyte) t ∧
      RunsTo crcStart (x.map .ckbyte) u ∧ crcResumed.data = u.ckState ∧ RunsTo crcResumed (.ckset 2 :: y.map .ckbyte) w := by
  have h1 : completes (.ckbyte 0x61) crcStart = true := by decide +kernel
  have h2 : completes (.ckbyte 0x62) (after (.ckbyte 0x61) crcStart) = true := by decide +kernel
  have h3 : completes (.ckset 2) crcResumed = true := by decide +kernel
  have h4 : completes (.ckbyte 0x62) (after (.ckset 2) crcResumed) = true := by decide +kernel
  refine ⟨[0x61], [0x62], after (.ckbyte 0x62) (after (.ckbyte 0x61) crcStart), after (.ckbyte 0x61) crcStart,
    after (.ckbyte 0x62) (after (.ckset 2) crcResumed), by decide, by decide +kernel, by decide, ?_, ?_, rfl, ?_⟩
  · exact .cons (ok_after h1).1 (ok_after h1).2 (.cons (ok_after h2).1 (ok_after h2).2 (.nil _))
  · exact .cons (ok_after h1).1 (ok_after h1).2 (.nil _)
  · exact .cons (ok_after h3).1 (ok_after h3).2 (.cons (ok_after h4).1 (ok_after h4).2 (.nil _))

theorem witness_CrcTablesAgree :
    (∃ table : Byte → Word, ∀ x : Byte, table x = crcRounds 8 (x.setWidth 32)) ∧
    (∃ table : BitVec 4 → Word, ∀ x : BitVec 4, table x = crcRounds 4 (x.setWidth 32)) :=
  ⟨⟨fun x => crcRounds 8 (x.setWidth 32), fun _ => rfl⟩, ⟨fun x => crcRounds 4 (x.setWidth 32), fun _ => rfl⟩⟩

theorem witness_PseudoChecksumsReturnTheState :
    (pending (pseudoAdler32 0 1 [0x61])).busy = false ∧
    (pending (pseudoAdler32 0 1 [0x61])).hostq = pseudoAdler32 State.reset.platform.mmioBase 1 [0x61] ∧
    (pending (pseudoCrc32 0 0xFFFFFFFF#32 [])).hostq = pseudoCrc32 State.reset.platform.mmioBase 0xFFFFFFFF#32 [] := by decide

/-- Exactly 32 bits left, and 0 bits asked of an empty source. -/
theorem witness_GetbitsReturnsTheNextSourceBits :
    (stream 0 0 0 [0x78, 0x56, 0x34, 0x12]).pstate ≠ .idle ∧
    32 ≤ (stream 0 0 0 [0x78, 0x56, 0x34, 0x12]).toEngine.sourceBits.length ∧
    (stream 0 0 0 []).toEngine.sourceBits.length = 0 ∧ (stream 0 0 0 []).pstate ≠ .idle ∧
    8 ≤ (stream 0 0 0 [0x78]).toEngine.sourceBits.length := by decide +kernel

theorem witness_AlignDiscardsTheHeldBits : (stream 0 0 0 []).pstate ≠ .idle := by decide +kernel

/-- One bit short: 8 bits for a read of 9, resident and on the pull port. -/
def pullOne : State :=
  withEngine (stream 0x20 0 0 []) fun c => { c with ports := { c.ports with pullQ := [.byte 0x4B, .eof] } }

theorem witness_GetbitsAtTheEndOfTheSource :
    (stream 0 0 0 [1]).toEngine.Inv ∧ (stream 0 0 0 [1]).pstate ≠ .idle ∧ (stream 0 0 0 [1]).latch.ctrl.srcPull = false ∧
    (stream 0 0 0 [1]).toEngine.sourceBytes.length = ((stream 0 0 0 [1]).latch.srcLen - (stream 0 0 0 [1]).srcPos).toNat ∧
    (stream 0 0 0 [1]).toEngine.sourceBits.length < (9 : BitVec 6).toNat ∧
    pullOne.toEngine.Inv ∧ pullOne.pstate ≠ .idle ∧ pullOne.latch.ctrl.srcPull = true ∧ pullOne.ports.pullEnded = false ∧
    pullOne.ports.pullQ = [0x4B].map .byte ++ .eof :: [] ∧
    pullOne.bitcnt.toNat + 8 * [(0x4B : Byte)].length < (9 : BitVec 6).toNat := by
  refine ⟨inv_of_check (by decide +kernel), ?_, ?_, ?_, ?_, inv_of_check (by decide +kernel), ?_, ?_, ?_, ?_, ?_⟩ <;>
    decide +kernel

/-- The same for `GETBYTE`: 4 bits are left of the one byte. -/
theorem witness_GetbitsAtTheEndOfTheSource_getbyte :
    (let s := after (.getbits 4) (stream 0 0 0 [1])
     invCheck s.toEngine = true ∧ s.pstate ≠ .idle ∧ s.latch.ctrl.srcPull = false ∧
       s.toEngine.sourceBytes.length = (s.latch.srcLen - s.srcPos).toNat ∧ s.toEngine.sourceBits.length < 8) ∧
    (let s := after (.getbits 4) pullOne
     invCheck s.toEngine = true ∧ s.pstate ≠ .idle ∧ s.latch.ctrl.srcPull = true ∧ s.ports.pullEnded = false ∧
       s.ports.pullQ = ([] : List Byte).map .byte ++ .eof :: [] ∧ s.bitcnt.toNat + 8 * 0 < 8) := by decide +kernel

theorem witness_CommandsWithoutAStreamReportIt :
    needsStream (.get 0) = true ∧ (Instr.get 0).wf = true ∧ State.reset.pstate = .idle := by decide

/-- The last entry of `LEN`, unwritten and then written. -/
theorem witness_LenwWritesAndLenrReadsOneEntry :
    (319 : BitVec 9).toNat < 320 ∧ State.reset.len.read 319 = none ∧
    (after (.lenw 319 15) State.reset).len.read 319 = some 15 := by decide +kernel

/-- Written lengths that build, and one that is over-subscribed by one code. -/
theorem witness_BuildMakesTheCanonicalTables :
    (Instr.build 0 0 8).wf = true ∧ ([3, 3, 3, 3, 3, 2, 4, 4] : List (BitVec 4)).length = (8 : BitVec 9).toNat ∧
    (∀ k, k < (8 : BitVec 9).toNat → t3.len.read ((0 : BitVec 9).toNat + k)
      = ([3, 3, 3, 3, 3, 2, 4, 4] : List (BitVec 4))[k]?) ∧
    kraftSum [3, 3, 3, 3, 3, 2, 4, 4] = 2 ^ 15 ∧ kraftSum [1, 1, 15] = 2 ^ 15 + 1 := by decide +kernel

/-- T3's array with one entry more, the first never written. -/
theorem witness_BuildMakesTheCanonicalTables_unwritten :
    (Instr.build 0 0 9).wf = true ∧ 8 < (9 : BitVec 9).toNat ∧
    (∀ k, k < 8 → (t3.len.read ((0 : BitVec 9).toNat + k)).isSome = true) ∧
    t3.len.read ((0 : BitVec 9).toNat + 8) = none := by decide +kernel

/-- The tree and the source of 95_test_vectors.md T3: symbol 5 has the code `00`; and symbol 7, the last, has `1111`. -/
theorem witness_DecodeReturnsTheSymbolOfItsCode :
    let ls : List (BitVec 4) := [3, 3, 3, 3, 3, 2, 4, 4]
    let b := after (.build 0 0 8) t3
    let last := withEngine b fun c => { c with bitacc := 0xF, bitcnt := 4 }
    (0 : BitVec 2) ≠ 3 ∧ ls.length ≤ 288 ∧ kraftSum ls ≤ 2 ^ 15 ∧ 5 < ls.length ∧ ls.getD 5 0 ≠ 0 ∧
    b.toEngine.tree (Slot.ofCode 0) = builtTree t3.lt ls ∧ b.pstate ≠ .idle ∧ codeBits ls 5 <+: b.toEngine.sourceBits ∧
    last.toEngine.tree (Slot.ofCode 0) = builtTree t3.lt ls ∧ codeBits ls 7 <+: last.toEngine.sourceBits ∧
    (Instr.build 0 0 8).wf = true ∧ ls.length = (8 : BitVec 9).toNat ∧
    (∀ k, k < (8 : BitVec 9).toNat → t3.len.read ((0 : BitVec 9).toNat + k) = ls[k]?) ∧ t3.pstate ≠ .idle ∧
    codeBits ls 5 <+: t3.toEngine.sourceBits := by decide +kernel

/-- An unbuilt slot, and the empty code on a source of exactly 15 bits. -/
def fifteenBits : State := withEngine (stream 0 0 0 [0xFF]) fun c => { c with dt := builtTree c.dt [0], bitacc := 0x7F, bitcnt := 7 }

theorem witness_DecodeFailuresConsumeTheirBits :
    ((stream 0 0 0 []).toEngine.tree (Slot.ofCode 2)).valid = false ∧ (stream 0 0 0 []).pstate ≠ .idle ∧
    fifteenBits.pstate ≠ .idle ∧ exec (.decode 1) fifteenBits = .next (after (.decode 1) fifteenBits) ∧
    (after (.decode 1) fifteenBits).err = .invalidCode :=
  ⟨by decide +kernel, by decide +kernel, by decide +kernel, eq_after (by decide +kernel), by decide +kernel⟩

/-- The command completes with this error. -/
def endsWith (e : Err) (i : Instr) (s : State) : Bool :=
  match exec i s with
  | .next t => !t.busy && decide (t.err = e)
  | _ => false

/-- `LT` built from these lengths. -/
def builtAs (ls : List (BitVec 4)) (s : State) : State := withEngine s fun c => { c with lt := builtTree c.lt ls }

/-- No code at the front of 16 source bits: the empty code, and ones under an incomplete code; and a source that ends after one bit of a
code, on the resident slice and with an `EOF`. -/
theorem witness_DecodeFailuresConsumeTheirBits_noCode :
    (let s := builtAs [0, 0] (stream 0 0 0 [0, 0])
     s.pstate ≠ .idle ∧ kraftSum [0, 0] ≤ 2 ^ 15 ∧ 15 ≤ s.toEngine.sourceBits.length) ∧
    (let s := builtAs [1] (stream 0 0 0 [0xFF, 0xFF])
     kraftSum [1] ≤ 2 ^ 15 ∧ ¬ codeBits [1] 0 <+: s.toEngine.sourceBits ∧ 15 ≤ s.toEngine.sourceBits.length ∧
       endsWith .invalidCode (.decode 0) s = true) ∧
    (let s := builtAs [1] (stream 0 0 0 [0xFF])
     invCheck s.toEngine = true ∧ ¬ codeBits [1] 0 <+: s.toEngine.sourceBits ∧ s.toEngine.sourceBits.length < 15 ∧
       s.toEngine.sourceEnds = true ∧ endsWith .srcExhausted (.decode 0) s = true) ∧
    (let s := withEngine (builtAs [1] (stream 0x20 0 0 [])) fun c => { c with ports := { c.ports with pullQ := [.byte 0xFF, .eof] } }
     invCheck s.toEngine = true ∧ ¬ codeBits [1] 0 <+: s.toEngine.sourceBits ∧ s.toEngine.sourceBits.length < 15 ∧
       s.toEngine.sourceEnds = true ∧ endsWith .srcExhausted (.decode 0) s = true) := by decide +kernel

theorem witness_PutEmitsOneByte :
    (stream 0x0C 8 1 []).pstate ≠ .idle ∧
    (withEngine (stream 0x0C 8 1 []) fun c => { c with ports := { c.ports with pushReady := 1 } }).toEngine.accepts 1 ∧
    ((stream 0x04 0 0 []).latch.ctrl.dstRes = true ∧ (stream 0x04 0 0 []).dstPos = (stream 0x04 0 0 []).latch.dstLen) := by
  refine ⟨by decide +kernel, ⟨fun _ => ⟨by decide +kernel, ?_⟩, fun _ => by decide +kernel⟩, by decide +kernel⟩
  decide +kernel

/-- The first byte of the resident slice, the oldest byte of the ring, and the oldest byte only the read-back port has. -/
theorem witness_GetReturnsTheHistoryByte :
    (t5.pstate ≠ .idle ∧ t5.toEngine.covered 2 = true ∧ t5.toEngine.histByte 2 = some 0x61) ∧
    (p4.toEngine.covered 3 = true ∧ p4.toEngine.histByte 3 = some 0x61) ∧
    (let s := withEngine (after (.put 0x41) (stream 0x10 0 0 [])) fun c => { c with ports := { c.ports with readDestQ := [0x41] } }
     s.pstate ≠ .idle ∧ s.toEngine.covered 1 = true ∧ (s.latch.ctrl.dstRes = true → s.dstPos.toNat < 1) ∧
       s.latch.ringCap = 0 ∧ s.ports.readDestQ = 0x41 :: []) := by decide +kernel

/-- Distance 0, one past the oldest byte, and one past the window; a copy longer than the room by one. -/
theorem witness_RefusedHistoryReadsDoNothing :
    t5.pstate ≠ .idle ∧ t5.toEngine.covered 0 = false ∧ t5.toEngine.covered 3 = false ∧ t5.toEngine.covered 32769 = false ∧
    t5.toEngine.covered 2 = true ∧ t5.latch.ctrl.dstRes = true ∧ (t5.latch.dstLen - t5.dstPos).toNat < (7 : BitVec 9).toNat := by
  decide +kernel

/-- 95_test_vectors.md T5, row 3: an overlapping copy. -/
theorem witness_CopyRepeatsTheHistory :
    t5.toEngine.Inv ∧ t5.pstate ≠ .idle ∧ t5.toEngine.covered 2 = true ∧ t5.toEngine.accepts 5 ∧
    ∀ j, j < 5 → j < 2 → (t5.toEngine.histByte (2 - j)).isSome = true := by
  refine ⟨inv_of_check (by decide +kernel), by decide +kernel, by decide +kernel, ⟨fun _ => ⟨by decide +kernel, ?_⟩, ?_⟩, ?_⟩ <;>
    decide +kernel

/-- One emitted byte, readable through the read-back port only. -/
def rdest : State :=
  withEngine (after (.put 0x41) (stream 0x10 0 0 [])) fun c => { c with ports := { c.ports with readDestQ := [0x41, 0x41] } }

/-- The same with the push port on and a ring of 2 bytes, too small for the distance, as 95_test_vectors.md WD-8 has the push port. -/
def rdestPush : State :=
  let s := withEngine (stream 0x18 2 0 []) fun c => { c with ports := { c.ports with pushReady := 5 } }
  withEngine (after (.put 0x43) (after (.put 0x42) (after (.put 0x41) s))) fun c =>
    { c with ports := { c.ports with readDestQ := [0x41, 0x42] } }

theorem witness_CopyFromTheReadBackPort :
    (rdest.pstate ≠ .idle ∧ [(0x41 : Byte), 0x41].length = (2 : BitVec 9).toNat ∧
      rdest.ports.readDestQ = [0x41, 0x41] ++ [] ∧ rdest.latch.ctrl.dstRes = false ∧ rdest.latch.ringCap = 0 ∧
      rdest.latch.ctrl.dstPush = false ∧ rdest.toEngine.covered 1 = true) ∧
    (rdestPush.pstate ≠ .idle ∧ rdestPush.ports.readDestQ = [0x41, 0x42] ++ [] ∧ rdestPush.latch.ctrl.dstRes = false ∧
      rdestPush.latch.ctrl.dstPush = true ∧ 2 ≤ rdestPush.ports.pushReady ∧ rdestPush.toEngine.covered 3 = true ∧
      rdestPush.ringFill.toNat < 3 ∧ rdestPush.latch.ringCap.toNat < 3 ∧ rdestPush.latch.ringCap ≠ 0) := by decide +kernel

theorem witness_CopyIsGetThenPutPerByte :
    completes (.get 2) t5 = true ∧ completes (.put ((after (.get 2) t5).result.setWidth 8)) (after (.get 2) t5) = true ∧
    completes (.copy 5 2) t5 = true ∧ completes (.copy 1 2) (after (.copy 5 2) t5) = true := by decide +kernel

theorem witness_PreloadEntersTheRingOnly : p4.latch.ringCap ≠ 0 ∧ p4.pstate = .hdr ∧ p4.outSat = 0 := by decide +kernel

theorem witness_CoverageOnlyGrows :
    t5.toEngine.Inv ∧ exec (.copy 5 2) t5 = .next (after (.copy 5 2) t5) ∧ t5.toEngine.covered 2 = true :=
  ⟨inv_of_check (by decide +kernel), eq_after (by decide +kernel), by decide +kernel⟩

theorem witness_StepOnAnEndedStreamOrWithNoBudget :
    (withEngine (stream 0 0 0 []) fun c => { c with pstate := .done }).pstate = .done ∧
    (withEngine (stream 0 0 0 []) fun c => { c with pstate := .checksumError, streamErr := .checksum }).pstate.failed = true ∧
    (stream 0x04 0 0 []).pstate.active = true ∧
    ((stream 0x04 0 0 []).latch.ctrl.dstRes = true ∧ (stream 0x04 0 0 []).latch.dstLen = (stream 0x04 0 0 []).dstPos) := by
  decide +kernel

/-- Three bytes left of a stored block, three bytes of source, three bytes of room. -/
def storedThree : State :=
  withEngine (stream 0x06 0 3 [0x78, 0x79, 0x7A]) fun c => { c with pstate := .stored, srem := 3 }

/-- Two bytes of source for three bytes of block, and bit 4 of a byte held: a source that ends, and an unaligned reader. -/
theorem witness_StepCopiesStoredBytes_ends :
    (let s := withEngine (stream 0x06 0 8 [0x78, 0x79]) fun c => { c with pstate := .stored, srem := 3 }
     invCheck s.toEngine = true ∧ s.latch.overlaps = false ∧ s.bitcnt = 0 ∧ s.toEngine.sourceEnds = true ∧
       s.toEngine.sourceBytes.length < s.srem.toNat ∧ s.toEngine.sourceBytes.length < s.toEngine.budget 5 ∧
       2 ≤ s.toEngine.room ∧ s.latch.ctrl.dstPush = false ∧ endsWith .srcExhausted (.step 5) s = true) ∧
    (let s := withEngine (after (.getbits 4) (stream 0x06 0 8 [0x78, 0x79])) fun c => { c with pstate := .stored, srem := 3 }
     completes (.getbits 8) s = true ∧
       completes (.put ((after (.getbits 8) s).result.setWidth 8)) (after (.getbits 8) s) = true) ∧
    (let s := withEngine (after (.getbits 4) (stream 0x06 0 8 [0x78])) fun c => { c with pstate := .stored, srem := 3 }
     endsWith .srcExhausted (.getbits 8) s = true ∧ s.toEngine.budget 1 ≠ 0) := by decide +kernel

/-- A stored block with no byte left, `bfinal` and the trailer as given. -/
def storedEnd (ctrl : Word) (final : Bool) : State :=
  withEngine (stream ctrl 0 3 []) fun c => { c with pstate := .stored, srem := 0, bfinal := final }

/-- A block that goes on with a header, the end of a stream without a trailer, and with one. -/
theorem witness_StepCopiesStoredBytes_end :
    ((storedEnd 0x06 false).pstate = .stored ∧ (storedEnd 0x06 false).srem = 0 ∧ (storedEnd 0x06 false).toEngine.budget 1 ≠ 0 ∧
      (storedEnd 0x06 false).bfinal = false) ∧
    ((storedEnd 0x06 true).bfinal = true ∧ (storedEnd 0x06 true).latch.ctrl.trailer = .none ∧
      ends (.step 1) (storedEnd 0x06 true) = true) ∧
    ((storedEnd 0x46 true).bfinal = true ∧ (storedEnd 0x46 true).latch.ctrl.trailer ≠ .none ∧
      ends (.step 1) (storedEnd 0x46 true) = true) := by decide +kernel

theorem witness_StepCopiesStoredBytes :
    storedThree.toEngine.Inv ∧ storedThree.latch.overlaps = false ∧ storedThree.pstate = .stored ∧ storedThree.bitcnt = 0 ∧
    (3 : BitVec 26).toNat ≤ storedThree.srem.toNat ∧ (3 : BitVec 26).toNat ≤ storedThree.toEngine.sourceBytes.length ∧
    storedThree.toEngine.accepts 3 := by
  refine ⟨inv_of_check (by decide +kernel), by decide +kernel, by decide +kernel, by decide +kernel, by decide +kernel,
    by decide +kernel, ⟨fun _ => ⟨by decide +kernel, ?_⟩, ?_⟩⟩ <;> decide +kernel

/-- A back-reference of 5 bytes at distance 2, in progress. -/
def copying : State := withEngine t5 fun c => { c with pstate := .copy, lzRem := 5, lzDist := 2 }

theorem witness_StepInCopyStateIsCopy :
    copying.pstate = .copy ∧ (5 : BitVec 9).toNat ≤ copying.lzRem.toNat ∧ (5 : BitVec 26).toNat = (5 : BitVec 9).toNat ∧
    exec (.copy 5 copying.lzDist) copying = .next (after (.copy 5 copying.lzDist) copying) ∧
    (after (.copy 5 copying.lzDist) copying).ok :=
  ⟨by decide +kernel, by decide +kernel, by decide, (ok_after (by decide +kernel)).1, (ok_after (by decide +kernel)).2⟩

/-- The back-reference has ended. -/
theorem witness_StepInCopyStateIsCopy_end :
    (withEngine copying fun c => { c with lzRem := 0 }).pstate = .copy ∧ copying.toEngine.budget 1 ≠ 0 ∧
    ends (.step 1) (withEngine copying fun c => { c with lzRem := 0 }) = true := by decide +kernel

/-- A block whose literal/length code has the one symbol `n - 1`, with code `0`, and whose distance code has the one symbol 0; one
byte of source, all bits 0. -/
def oneSymbol (n : Nat) (s : State) : State :=
  withEngine s fun c =>
    { c with
      pstate := .huff, bfinal := true
      lt := builtTree c.lt (List.replicate (n - 1) 0 ++ [1]), dt := builtTree c.dt [1] }

/-- Before any output, and after one byte. -/
def noOutput : State := stream 0x04 0 8 [0x00]

def oneOutput : State := after (.put 0x61) noOutput

/-- A literal, the end of the block, symbol 286. -/
theorem witness_StepActsOnTheDecodedSymbol :
    (oneSymbol 256 noOutput).pstate = .huff ∧ completes (.decode 0) (oneSymbol 256 noOutput) = true ∧
    (after (.decode 0) (oneSymbol 256 noOutput)).result.toNat = 255 ∧
    completes (.put 0xFF) (after (.decode 0) (oneSymbol 256 noOutput)) = true ∧
    completes (.decode 0) (oneSymbol 257 noOutput) = true ∧
    (after (.decode 0) (oneSymbol 257 noOutput)).result.toNat = 256 ∧
    (oneSymbol 257 noOutput).bfinal = true ∧ (oneSymbol 257 noOutput).latch.ctrl.trailer = .none ∧
    (oneSymbol 257 noOutput).toEngine.budget 1 ≠ 0 ∧ completes (.decode 0) (oneSymbol 287 noOutput) = true ∧
    (oneSymbol 287 noOutput).toEngine.budget 1 ≠ 0 ∧
    (after (.decode 0) (oneSymbol 287 noOutput)).result.toNat = 286 := by decide +kernel

/-- The three errors of a `DECODE` in `HUFF`. -/
theorem witness_StepActsOnTheDecodedSymbol_fails :
    (let s := withEngine (stream 0x04 0 8 [0]) fun c => { c with pstate := .huff }
     s.toEngine.budget 1 ≠ 0 ∧ endsWith .treeNotBuilt (.decode 0) s = true) ∧
    (let s := oneSymbol 256 (stream 0x04 0 8 [0xFF, 0xFF])
     s.toEngine.budget 1 ≠ 0 ∧ endsWith .invalidCode (.decode 0) s = true) ∧
    (let s := oneSymbol 256 (stream 0x04 0 8 [])
     s.toEngine.budget 1 ≠ 0 ∧ endsWith .srcExhausted (.decode 0) s = true) := by decide +kernel

/-- The end-of-block symbol with `bfinal` and the configuration as given: the next header, and the trailer. -/
theorem witness_StepActsOnTheDecodedSymbol_goesOn :
    (let s := withEngine (oneSymbol 257 noOutput) fun c => { c with bfinal := false }
     completes (.decode 0) s = true ∧ (after (.decode 0) s).result.toNat = 256 ∧ s.bfinal = false ∧
       s.toEngine.budget 1 ≠ 0 ∧ ends (.step 1) s = true) ∧
    (let s := oneSymbol 257 (stream 0x45 0 8 [0x00])
     completes (.decode 0) s = true ∧ (after (.decode 0) s).result.toNat = 256 ∧ s.bfinal = true ∧
       s.latch.ctrl.trailer ≠ .none ∧ s.toEngine.budget 1 ≠ 0 ∧ ends (.step 1) s = true) := by decide +kernel

/-- Length symbol 257 with distance symbol 0, up to the check of distance 1. -/
def resolves (s : State) : Bool :=
  let t₁ := after (.decode 0) s
  let t₂ := after (.getbits 0) t₁
  let t₃ := after (.decode 1) t₂
  decide (s.pstate = .huff) && decide (s.toEngine.budget 1 ≠ 0) && completes (.decode 0) s
    && decide (t₁.result.toNat = 257 + 0) && completes (.getbits (BitVec.ofNat 6 (lenExtra.getD 0 0))) t₁
    && completes (.decode 1) t₂ && decide (t₃.result.toNat < 30)
    && completes (.getbits (BitVec.ofNat 6 (distExtra.getD t₃.result.toNat 0))) t₃

/-- Distance 1 is covered after one byte of output and not before. -/
theorem witness_StepResolvesALengthSymbol :
    resolves (oneSymbol 258 oneOutput) = true ∧
    (after (.getbits 0) (after (.decode 1) (after (.getbits 0) (after (.decode 0) (oneSymbol 258 oneOutput))))).toEngine.covered
      (distBase.getD 0 0) = true ∧
    resolves (oneSymbol 258 noOutput) = true ∧
    (after (.getbits 0) (after (.decode 1) (after (.getbits 0) (after (.decode 0) (oneSymbol 258 noOutput))))).toEngine.covered
      (distBase.getD 0 0) = false := by decide +kernel

/-- The distance symbol 30, from a `DT` built with 31 lengths. -/
theorem witness_StepResolvesALengthSymbol_badSymbol :
    let s := withEngine (oneSymbol 258 oneOutput) fun c => { c with dt := builtTree c.dt (List.replicate 30 0 ++ [1]) }
    let t₁ := after (.decode 0) s
    s.pstate = .huff ∧ s.toEngine.budget 1 ≠ 0 ∧ completes (.decode 0) s = true ∧ t₁.result.toNat = 257 + 0 ∧
    completes (.getbits 0) t₁ = true ∧ completes (.decode 1) (after (.getbits 0) t₁) = true ∧
    (after (.decode 1) (after (.getbits 0) t₁)).result.toNat = 30 := by decide +kernel

/-- The three reads that can fail after a length symbol: its extra bits, the distance symbol and the extra bits of that. -/
theorem witness_StepResolvesALengthSymbol_fails :
    (let s := oneSymbol 266 (stream 0x04 0 8 [0x00])
     let t := after (.decode 0) (after (.getbits 7) s)
     completes (.getbits 7) s = true ∧ completes (.decode 0) (after (.getbits 7) s) = true ∧ t.result.toNat = 257 + 8 ∧
       endsWith .srcExhausted (.getbits 1) t = true) ∧
    (let s := oneSymbol 258 (stream 0x04 0 8 [0xFE, 0xFF])
     let t := after (.getbits 0) (after (.decode 0) s)
     (after (.decode 0) s).result.toNat = 257 ∧ completes (.getbits 0) (after (.decode 0) s) = true ∧
       endsWith .invalidCode (.decode 1) t = true) ∧
    (let s := withEngine (oneSymbol 258 (stream 0x04 0 8 [0x00])) fun c => { c with dt := builtTree c.dt (List.replicate 29 0 ++ [1]) }
     let t := after (.decode 1) (after (.getbits 0) (after (.decode 0) s))
     t.result.toNat = 29 ∧ endsWith .srcExhausted (.getbits 13) t = true) := by decide +kernel

/-- The first three bits of a block header read as commands. -/
def headerBits (s : State) : State := after (.getbits 2) (after (.getbits 1) s)

/-- The same with the two fields noted, as the header read does. -/
def headerNoted (s : State) : State :=
  withEngine (headerBits s) fun c =>
    { c with bfinal := (after (.getbits 1) s).result.getLsbD 0, btype := (headerBits s).result.setWidth 2 }

/-- The hypotheses common to all headers. -/
def readsHeader (s : State) : Bool :=
  decide (s.pstate = .hdr) && decide (s.toEngine.budget 1 ≠ 0) && completes (.getbits 1) s
    && completes (.getbits 2) (after (.getbits 1) s)

/-- A stored header whose two lengths can be read. -/
def readsLengths (s : State) : Bool :=
  readsHeader s && decide ((headerBits s).result = 0) && answers .align (headerNoted s)
    && completes (.getbits 16) (after .align (headerNoted s))
    && completes (.getbits 16) (after (.getbits 16) (after .align (headerNoted s)))

/-- The four headers: type 3, type 1, and type 0 with matching and with differing lengths. -/
theorem witness_StepReadsTheBlockHeader :
    (readsHeader (stream 0x04 0 8 [0x07]) = true ∧ (headerBits (stream 0x04 0 8 [0x07])).result = 3) ∧
    (readsHeader (stream 0x04 0 8 [0x03]) = true ∧ (headerBits (stream 0x04 0 8 [0x03])).result = 1 ∧
      answers .fixed (headerNoted (stream 0x04 0 8 [0x03])) = true) ∧
    (let s := stream 0x04 0 8 [0x01, 0x03, 0x00, 0xFC, 0xFF]
     let l := after (.getbits 16) (after .align (headerNoted s))
     readsLengths s = true ∧ (after (.getbits 16) l).result = l.result ^^^ 0xFFFF#32) ∧
    (let s := stream 0x04 0 8 [0x01, 0x03, 0x00, 0xFC, 0xFE]
     let l := after (.getbits 16) (after .align (headerNoted s))
     readsLengths s = true ∧ (after (.getbits 16) l).result ≠ l.result ^^^ 0xFFFF#32) := by decide +kernel

/-- The `DynamicHeader` action ends without error, or with this error. -/
def headerEnds (c : Engine) (e : Option Err) : Bool :=
  match dynamicHeader.run c with
  | .ok _ _ => decide (e = none)
  | .error (.raise x) _ => decide (e = some x)
  | .error _ _ => false

/-- A source that ends before the first header bit, before the type, inside `LEN` and inside `NLEN`. -/
theorem witness_StepReadsTheBlockHeader_ends :
    (endsWith .srcExhausted (.getbits 1) (stream 0x04 0 8 []) = true ∧ (stream 0x04 0 8 []).toEngine.budget 1 ≠ 0) ∧
    (let s := after (.getbits 7) (stream 0x04 0 8 [0x80])
     s.pstate = .hdr ∧ completes (.getbits 1) s = true ∧ endsWith .srcExhausted (.getbits 2) (after (.getbits 1) s) = true) ∧
    (let s := stream 0x04 0 8 [0x01, 0x03]
     readsHeader s = true ∧ (headerBits s).result = 0 ∧ endsWith .srcExhausted (.getbits 16) (after .align (headerNoted s)) = true) ∧
    (let s := stream 0x04 0 8 [0x01, 0x03, 0x00, 0xFC]
     let l := after (.getbits 16) (after .align (headerNoted s))
     readsHeader s = true ∧ completes (.getbits 16) (after .align (headerNoted s)) = true ∧
       endsWith .srcExhausted (.getbits 16) l = true) := by decide +kernel

/-- The bytes of 95_test_vectors.md T7, and of its two corner cases. -/
def t7Bytes : List Byte := [0x0D, 0xC0, 0x81, 0x00, 0x00, 0x00, 0x00, 0x80, 0x20, 0xD6, 0xF7, 0x87, 0xF8, 0x98, 0x01]

def t7Counts : List Byte := [0xF5, 0x00, 0x00]

def t7Repeat : List Byte := [0x05, 0x00, 0x02, 0x24]

/-- The engine after the three bits of T7's block header. -/
def t7Header : Engine := (headerNoted (stream 0x04 0 8 t7Bytes)).toEngine

theorem t7_header_is_read : headerEnds t7Header none = true := by decide +kernel

theorem witness_DynamicHeaderBuildsTheTreesFromLen : ∃ c', dynamicHeader.run t7Header = .ok () c' := by
  have h := t7_header_is_read
  unfold headerEnds at h
  cases hr : dynamicHeader.run t7Header with
  | ok a c' => exact ⟨c', rfl⟩
  | error e c' => rw [hr] at h; cases e <;> simp at h

/-- A header of type 2 that is read without error, and two that fail. -/
theorem witness_StepReadsTheBlockHeader_dynamic :
    (readsHeader (stream 0x04 0 8 t7Bytes) = true ∧ (headerBits (stream 0x04 0 8 t7Bytes)).result = 2 ∧
      headerEnds t7Header none = true) ∧
    (readsHeader (stream 0x04 0 8 t7Counts) = true ∧ (headerBits (stream 0x04 0 8 t7Counts)).result = 2 ∧
      headerEnds (headerNoted (stream 0x04 0 8 t7Counts)).toEngine (some .badCounts) = true) ∧
    (readsHeader (stream 0x04 0 8 t7Repeat) = true ∧ (headerBits (stream 0x04 0 8 t7Repeat)).result = 2 ∧
      headerEnds (headerNoted (stream 0x04 0 8 t7Repeat)).toEngine (some .badRepeat) = true) := by
  refine ⟨⟨?_, ?_, t7_header_is_read⟩, ⟨?_, ?_, ?_⟩, ?_, ?_, ?_⟩ <;> decide +kernel

/-- The code-length lengths of a header that sends these in the order `PERM`. -/
def sentLengths (sent : List (BitVec 3)) : List (BitVec 4) :=
  (List.range 19).map fun j => (sent.getD (lenPerm.idxOf j) 0).setWidth 4

/-- 95_test_vectors.md T7 as the items it lists: HLIT field 1, HDIST field 0, HCLEN field 14; symbol 18 has length 1, and 1 and 2 have
length 2. -/
def t7Sent : List (BitVec 3) := [0, 0, 1, 0, 0, 0, 0, 0, 0, 0, 0, 0, 0, 0, 0, 2, 0, 2]

def t7Items : List LenItem :=
  [.manyZeros 86, .length 2, .length 2, .manyZeros 127, .manyZeros 8, .length 2, .length 2, .length 1]

def t7Lens : List (BitVec 4) :=
  List.replicate 97 0 ++ [2, 2] ++ List.replicate 157 0 ++ [2, 2] ++ [1]

theorem witness_DynamicHeaderBuildsTheTreesFromLen_spelled :
    (1 : BitVec 5).toNat + 257 ≤ 286 ∧ (0 : BitVec 5).toNat + 1 ≤ 30 ∧ t7Sent.length = (14 : BitVec 4).toNat + 4 ∧
    kraftSum (sentLengths t7Sent) ≤ 2 ^ 15 ∧ (∀ item ∈ t7Items, (sentLengths t7Sent).getD item.symbol 0 ≠ 0) ∧
    LenItem.expand t7Items = some t7Lens ∧ t7Lens.length = (1 : BitVec 5).toNat + 257 + ((0 : BitVec 5).toNat + 1) ∧
    fieldBits (1 : BitVec 5) ++ fieldBits (0 : BitVec 5) ++ fieldBits (14 : BitVec 4) ++ t7Sent.flatMap fieldBits
      ++ t7Items.flatMap (LenItem.bits (sentLengths t7Sent)) <+: t7Header.sourceBits ∧
    kraftSum (t7Lens.take 258) ≤ 2 ^ 15 ∧ kraftSum (t7Lens.drop 258) ≤ 2 ^ 15 := by decide +kernel

/-- HLIT field 30, from T7's first corner case. -/
theorem witness_DynamicHeaderBuildsTheTreesFromLen_counts :
    fieldBits (30 : BitVec 5) ++ fieldBits (0 : BitVec 5) ++ fieldBits (0 : BitVec 4)
      <+: (headerNoted (stream 0x04 0 8 t7Counts)).toEngine.sourceBits ∧ 286 < (30 : BitVec 5).toNat + 257 := by decide +kernel

/-- A repeat of nothing, from T7's second corner case; and, after 257 zero lengths of 258, a repeat of 11 more. -/
theorem witness_DynamicHeaderBuildsTheTreesFromLen_repeat :
    (let cl := sentLengths [1, 0, 0, 1]
     cl.getD 16 0 ≠ 0 ∧ LenItem.expand [] = some [] ∧ LenItem.extend [] (.again 0) = none ∧
       fieldBits (0 : BitVec 5) ++ fieldBits (0 : BitVec 5) ++ fieldBits (0 : BitVec 4)
           ++ ([1, 0, 0, 1] : List (BitVec 3)).flatMap fieldBits ++ [].flatMap (LenItem.bits cl) ++ (LenItem.again 0).bits cl
         <+: (headerNoted (stream 0x04 0 8 t7Repeat)).toEngine.sourceBits) ∧
    (let cl := sentLengths [0, 0, 1, 0]
     let items : List LenItem := [.manyZeros 127, .manyZeros 108]
     kraftSum cl ≤ 2 ^ 15 ∧ (∀ item ∈ items, cl.getD item.symbol 0 ≠ 0) ∧
       LenItem.expand items = some (List.replicate 257 0) ∧ cl.getD 18 0 ≠ 0 ∧
       LenItem.extend (List.replicate 257 0) (.manyZeros 0) = some (List.replicate 268 0) ∧
       fieldBits (0 : BitVec 5) ++ fieldBits (0 : BitVec 5) ++ fieldBits (0 : BitVec 4)
           ++ ([0, 0, 1, 0] : List (BitVec 3)).flatMap fieldBits ++ items.flatMap (LenItem.bits cl) ++ (LenItem.manyZeros 0).bits cl
         <+: (stream 0x04 0 8 [0x00, 0x00, 0x10, 0xF8, 0x63, 0x03, 0x00]).toEngine.sourceBits) := by
  decide +kernel

/-- After the three counts and the code-length lengths of T7: a source that ends there, bits that begin with no code under a code of the
one symbol 18, an over-subscribed code-length code, and length arrays that are over-subscribed. -/
theorem witness_DynamicHeaderBuildsTheTreesFromLen_fails :
    (let s := stream 0x04 0 8 [0x0D, 0xC0, 0x81]
     let front := fieldBits (1 : BitVec 5) ++ fieldBits (0 : BitVec 5) ++ fieldBits (14 : BitVec 4) ++ t7Sent.flatMap fieldBits
       ++ t7Items.flatMap (LenItem.bits (sentLengths t7Sent))
     (headerBits s).toEngine.sourceBits <+: front ∧ (headerBits s).toEngine.sourceBits ≠ front ∧
       (headerBits s).toEngine.sourceEnds = true) ∧
    (let bits := (stream 0x04 0 8 [0x00, 0x00, 0x10, 0xFC, 0xFF, 0xFF]).toEngine.sourceBits
     let cl := sentLengths [0, 0, 1, 0]
     let front := fieldBits (0 : BitVec 5) ++ fieldBits (0 : BitVec 5) ++ fieldBits (0 : BitVec 4)
       ++ ([0, 0, 1, 0] : List (BitVec 3)).flatMap fieldBits
     kraftSum cl ≤ 2 ^ 15 ∧ front <+: bits ∧ 15 ≤ (bits.drop front.length).length ∧
       ∀ j, j < 19 → cl.getD j 0 ≠ 0 → ¬ codeBits cl j <+: bits.drop front.length) ∧
    (2 ^ 15 < kraftSum (sentLengths [1, 1, 1, 0]) ∧
      fieldBits (0 : BitVec 5) ++ fieldBits (0 : BitVec 5) ++ fieldBits (0 : BitVec 4)
          ++ ([1, 1, 1, 0] : List (BitVec 3)).flatMap fieldBits
        <+: (stream 0x04 0 8 [0x00, 0x40, 0x12, 0x00]).toEngine.sourceBits) := by decide +kernel

/-- `n` bytes whose bits, in the order the bit reader takes them, begin with these. -/
def packBits : (n : Nat) → List Bool → List Byte
  | 0, _ => []
  | n + 1, bits => ((List.range 8).foldl (fun b k => if bits.getD k false then b ||| (1 <<< k) else b) 0) :: packBits n (bits.drop 8)

/-- The bits of a header with T7's code-length code. -/
def spelled (hlit hdist : BitVec 5) (items : List LenItem) : List Bool :=
  fieldBits hlit ++ fieldBits hdist ++ fieldBits (14 : BitVec 4) ++ t7Sent.flatMap fieldBits
    ++ items.flatMap (LenItem.bits (sentLengths t7Sent))

/-- Spelled with T7's code-length code: an over-subscribed literal/length array, and an over-subscribed distance array. -/
theorem witness_DynamicHeaderBuildsTheTreesFromLen_oversubscribed :
    let items : List LenItem := [.length 1, .length 1, .length 1, .manyZeros 127, .manyZeros 105, .length 1]
    let more : List LenItem := [.manyZeros 127, .manyZeros 108, .length 1, .length 1, .length 1]
    (∀ item ∈ items ++ more, (sentLengths t7Sent).getD item.symbol 0 ≠ 0) ∧
    LenItem.expand items = some ([1, 1, 1] ++ List.replicate 254 0 ++ [1]) ∧
    2 ^ 15 < kraftSum (([1, 1, 1] ++ List.replicate 254 0 ++ [1]).take 257) ∧
    spelled 0 0 items <+: (stream 0x04 0 8 (packBits 15 (spelled 0 0 items))).toEngine.sourceBits ∧
    LenItem.expand more = some (List.replicate 257 0 ++ [1, 1, 1]) ∧
    kraftSum ((List.replicate 257 0 ++ [1, 1, 1]).take 257) ≤ 2 ^ 15 ∧
    2 ^ 15 < kraftSum ((List.replicate 257 0 ++ [1, 1, 1]).drop 257) ∧
    spelled 0 2 more <+: (stream 0x04 0 8 (packBits 15 (spelled 0 2 more))).toEngine.sourceBits := by decide +kernel

/-- A stream whose final stored block has no byte left, with no output. -/
def atStoredEnd (ctrl : Word) (src : List Byte) : State :=
  withEngine (stream ctrl 0 8 src) fun c => { c with pstate := .stored, srem := 0, bfinal := true }

/-- The hypotheses common to all trailers, from the state at the end of the block. -/
def readsTrailer (s e : State) : Bool :=
  s.bfinal && decide (s.toEngine.budget 1 ≠ 0) && answers .align e && answers (.getbits 32) (after .align e)

/-- After a stored block, a zlib trailer that matches the empty output and one that does not; a gzip trailer of 8 bytes, matching and
not; one that ends early; and a zlib trailer after the end-of-block symbol. -/
theorem witness_StepChecksTheTrailer :
    (let s := atStoredEnd 0x45 [0, 0, 0, 1]
     s.pstate = .stored ∧ s.srem = 0 ∧ readsTrailer s s = true ∧ s.latch.ctrl.trailer = .zlib ∧ s.ckKind = .adler ∧
       completes (.getbits 32) (after .align s) = true ∧ s.ckState = 1) ∧
    (let s := atStoredEnd 0x45 [0, 0, 0, 2]
     readsTrailer s s = true ∧ s.ckState = 1) ∧
    (let s := atStoredEnd 0x86 [0, 0, 0, 0, 9, 9, 9, 9]
     readsTrailer s s = true ∧ s.latch.ctrl.trailer = .gzip ∧ s.ckKind = .crc ∧
       completes (.getbits 32) (after (.getbits 32) (after .align s)) = true ∧ ~~~s.ckState = 0) ∧
    (let s := atStoredEnd 0x86 [0, 0, 0, 1, 9, 9, 9]
     readsTrailer s s = true ∧ answers (.getbits 32) (after (.getbits 32) (after .align s)) = true ∧
       (after (.getbits 32) (after (.getbits 32) (after .align s))).err = .srcExhausted) ∧
    (let s := atStoredEnd 0x45 [0, 0, 0]
     readsTrailer s s = true ∧ (after (.getbits 32) (after .align s)).err = .srcExhausted) ∧
    (let s := oneSymbol 257 (stream 0x45 0 8 [0, 0, 0, 0, 1])
     s.pstate = .huff ∧ completes (.decode 0) s = true ∧ (after (.decode 0) s).result.toNat = 256 ∧
       readsTrailer s (after (.decode 0) s) = true) := by
  decide +kernel

theorem witness_StepSplitsAtAnyBudget :
    (2 : BitVec 26).toNat + (1 : BitVec 26).toNat < 2 ^ 26 ∧ completes (.step 2) storedThree = true ∧
    ends (.step 1) (after (.step 2) storedThree) = true := by decide +kernel

theorem witness_StepResultCountsTheEmittedBytes :
    exec (.step 3) storedThree = .next (after (.step 3) storedThree) ∧ (after (.step 3) storedThree).busy = false :=
  ends_after (by decide +kernel)

/-- A `STEP` that fails. -/
theorem witness_StepOutcomeIsInTheTable :
    (stream 0x04 0 8 [0x07]).toEngine.Inv ∧
    exec (.step 3) (stream 0x04 0 8 [0x07]) = .next (after (.step 3) (stream 0x04 0 8 [0x07])) ∧
    (after (.step 3) (stream 0x04 0 8 [0x07])).busy = false :=
  ⟨inv_of_check (by decide +kernel), ends_after (by decide +kernel)⟩

/-- The host program `decodestep` on a stored block: pulled bytes ready, and one byte that comes while the `STEP` waits. -/
def decodeStepProgram (rest : List HostAction) : State :=
  let s := withEngine (stream 0x22 0 0 []) fun c => { c with pstate := .stored, srem := 3 }
  { s with hostq := pseudoDecodeStep 0 1 ++ rest }

/-- The state its `STEP` starts from. -/
def decodeStepStart (rest : List HostAction) : State :=
  let s := decodeStepProgram rest
  { s with toEngine := { s.toEngine with err := .none }, busy := true, drop := false, hostq := (pseudoDecodeStep 0 1).tail ++ rest }

theorem witness_StepOutcomeIsInTheTable_program :
    (decodeStepProgram []).busy = false ∧ (decodeStepProgram []).platform.mmioBase = 0 ∧
    waits (.step 1) (decodeStepStart [.pullAnswer (.byte 7)]) = true ∧
    (match Sys2Proof.core.run 5 (decodeStepProgram [.pullAnswer (.byte 7)]) with
      | .next u => decide (u.busy = false ∧ u.hostq = [] ∧ u.busReads = [lanesOf u.statusWord, lanesOf 1#32])
      | _ => false) = true ∧
    (let s := withEngine (decodeStepStart []) fun c => { c with ports := { c.ports with pullQ := [.byte 7] } }
     ends (.step 1) s = true) := by decide +kernel

theorem witness_CommandsWriteOnlyTheirUnits : exec (.copy 5 2) t5 = .next (after (.copy 5 2) t5) :=
  eq_after (by decide +kernel)

theorem witness_CommandsStoreOnlyAtTheDestinationCursor :
    Instr.copy 5 2 ≠ .init ∧ exec (.copy 5 2) t5 = .next (after (.copy 5 2) t5) ∧ (after (.copy 5 2) t5).ok ∧
    t5.latch.ctrl.dstRes = true :=
  ⟨by decide, (ok_after (by decide +kernel)).1, (ok_after (by decide +kernel)).2, by decide +kernel⟩

theorem witness_ChecksumCoversExactlyThePushedBytes :
    p4.latch.ctrl.dstPush = true ∧ exec (.copy 6 2) p4 = .next (after (.copy 6 2) p4) ∧ (after (.copy 6 2) p4).busy = false :=
  ⟨by decide +kernel, ends_after (by decide +kernel)⟩

/-- A state after `INIT` with a `STEP` pending. -/
theorem witness_StepKeepsTheBoundaryInvariant :
    let s : State := { storedThree with hostq := [storedThree.cmdAction 0x08000003#32] }
    s.Inv ∧ ∃ t, step s = .next t := by
  intro s
  refine ⟨⟨by decide +kernel, fun _ => inv_of_check (by decide +kernel), ?_⟩, ?_⟩
  · intro r hr
    have h : s.running.isSome = false := by decide +kernel
    rw [hr] at h
    cases h
  · have h : (match step s with | .next _ => true | _ => false) = true := by decide +kernel
    cases hs : step s with
    | next t => exact ⟨t, rfl⟩
    | fault f => rw [hs] at h; cases h
    | refused r => rw [hs] at h; cases h

theorem witness_StepKeepsStoresCanonical :
    ({ storedThree with hostq := [.memWrite 0x5000 1] } : State).storesWf = true ∧
    (match step { storedThree with hostq := [.memWrite 0x5000 1] } with | .next _ => true | _ => false) = true := by
  decide +kernel

/-- A ring of two bytes and the same two bytes in the resident destination. -/
def both : State := after (.put 0x62) (after (.put 0x61) (stream 0x04 2 8 []))

theorem witness_both_written : both.toEngine.Written := by
  have hv : ∀ sl, (both.toEngine.tree sl).valid = false := by intro sl; cases sl <;> decide +kernel
  refine ⟨fun sl h => ?_, fun sl h => ?_, fun d h1 h2 => ?_, fun _ d h1 h2 => ?_⟩
  · rw [hv sl] at h; cases h
  · rw [hv sl] at h; cases h
  · have h3 : both.ringFill.toNat = 2 := by decide +kernel
    rw [h3] at h2
    have : ∀ d, d < 3 → 1 ≤ d → (both.ring.read (both.toEngine.ringPlace d)).isSome = true := by decide +kernel
    exact this d (by omega) h1
  · have h3 : both.dstPos.toNat = 2 := by decide +kernel
    rw [h3] at h2
    have : ∀ d, d < 3 → 1 ≤ d → both.platform.backs (both.latch.dstBase + both.dstPos - BitVec.ofNat 32 d) = true ∧
        (both.mem.read (both.latch.dstBase + both.dstPos - BitVec.ofNat 32 d).toNat).isSome = true := by decide +kernel
    exact this d (by omega) h1

/-- A boundary state in which `GET` completes and `LENR` faults. -/
theorem witness_CommandsReadOnlyWrittenEntries :
    both.toEngine.Inv ∧ both.toEngine.Written ∧ completes (.get 2) both = true ∧ answers (.lenr 0) both = false :=
  ⟨inv_of_check (by decide +kernel), witness_both_written, by decide +kernel, by decide +kernel⟩

theorem witness_CommandsKeepHistoryAgreement :
    both.toEngine.Inv ∧ both.toEngine.HistoryAgrees ∧ exec (.copy 3 2) both = .next (after (.copy 3 2) both) ∧
    (after (.copy 3 2) both).busy = false := by
  refine ⟨inv_of_check (by decide +kernel), fun _ d h1 h2 _ => ?_, ends_after (by decide +kernel)⟩
  have h3 : both.dstPos.toNat = 2 := by decide +kernel
  rw [h3] at h2
  have : ∀ d, d < 3 → 1 ≤ d → both.mem.read (both.latch.dstBase + both.dstPos - BitVec.ofNat 32 d).toNat
      = both.ring.read (both.toEngine.ringPlace d) := by decide +kernel
  exact this d (by omega) h1

/-- An unanswered pull, an unbacked source byte, an unbacked destination byte, an unaccepted push after a resident write, an unanswered
read-back; and a `wait` that no answer ends. -/
theorem witness_UnansweredPortsAndUnbackedAddressesKeepBusy :
    (let s := stream 0x20 0 0 []
     s.pstate ≠ .idle ∧ s.latch.ctrl.srcPull = true ∧ s.ports.pullQ = [] ∧ s.bitcnt = 0) ∧
    (let s := withEngine (stream 0 0 0 [1]) fun c => { c with platform := ⟨0, [⟨0, 0x1000⟩]⟩ }
     s.pstate ≠ .idle ∧ s.latch.ctrl.srcPull = false ∧ s.bitcnt = 0 ∧ s.srcPos ≠ s.latch.srcLen ∧
       s.platform.backs (s.latch.srcBase + s.srcPos) = false ∧ waits (.getbits 1) s = true) ∧
    (let s := withEngine (stream 0x04 0 1 []) fun c => { c with platform := ⟨0, [⟨0, 0x4000⟩]⟩ }
     s.pstate ≠ .idle ∧ s.latch.ctrl.dstRes = true ∧ s.dstPos ≠ s.latch.dstLen ∧
       s.platform.backs (s.latch.dstBase + s.dstPos) = false) ∧
    (let s := stream 0x0C 0 8 []
     s.latch.ctrl.dstRes = true ∧ s.latch.ctrl.dstPush = true ∧ s.dstPos ≠ s.latch.dstLen ∧ s.ports.pushReady = 0 ∧
       s.platform.backs (s.latch.dstBase + s.dstPos) = true) ∧
    (let s := withEngine rdest fun c => { c with ports := { c.ports with readDestQ := [] } }
     s.pstate ≠ .idle ∧ s.toEngine.covered 1 = true ∧ s.latch.ctrl.dstRes = false ∧ s.latch.ringCap = 0 ∧
       s.ports.readDestQ = []) ∧
    (let s : State := { after (.put 0x61) (stream 0x0C 0 8 []) with hostq := [.wait, .read 0x24 4] }
     s.busy = true ∧ s.hostq = .wait :: [.read 0x24 4] ∧
       (HostAction.read 0x24 4).besideProgram.isNone = true) := by decide +kernel

/-- A `PUT` that has stored its byte and waits for the push port. -/
theorem witness_AnswerAfterAWaitEqualsAnswerBefore :
    exec (.put 0x61) (stream 0x0C 0 8 []) = .next (after (.put 0x61) (stream 0x0C 0 8 [])) ∧
    (after (.put 0x61) (stream 0x0C 0 8 [])).busy = true :=
  waits_after (by decide +kernel)

/-- The acceptance passes the `wait` and the read behind it; then the `wait` is over. -/
theorem witness_AnswerAfterAWaitEqualsAnswerBefore_wait :
    let s : State := { after (.put 0x61) (stream 0x0C 0 8 []) with hostq := .wait :: [.read 0x24 4] ++ .pushAccept :: [] }
    s.busy = true ∧ (HostAction.read 0x24 4).besideProgram.isNone = true ∧
    (stepped s).busy = false ∧ (stepped s).hostq = [.wait, .read 0x24 4] ∧ (stepped (stepped s)).hostq = [.read 0x24 4] := by
  decide +kernel

/-- The same `PUT` goes on when the host accepts the byte. -/
theorem witness_ResumingKeepsEveryEarlierEffect :
    let s := stream 0x0C 0 8 []
    let t := after (.put 0x61) s
    exec (.put 0x61) s = .next t ∧ t.busy = true ∧ ∃ u, deliver (fun c => c.offerPush) t = .next u := by
  intro s t
  refine ⟨(waits_after (by decide +kernel)).1, (waits_after (by decide +kernel)).2, ?_⟩
  have h : (match deliver (fun c => c.offerPush) t with | .next _ => true | _ => false) = true := by decide +kernel
  cases hd : deliver (fun c => c.offerPush) t with
  | next u => exact ⟨u, rfl⟩
  | fault f => rw [hd] at h; cases h
  | refused r => rw [hd] at h; cases h

end Sys2Proof.Tests
end

section
/-! SUPPORT. The boundary invariant and history agreement (10_state.md R42, R43): rules for reasoning about a piece of a
command, what reading the source and the tables leaves alone, what one emitted byte does, the invariant of the sequencer's
loop, and the steps of the host. At the end the settled statements. -/

namespace Sys2Proof.Machine

/-! ### Weakest preconditions of a piece of a command -/

/-- Running `x` from `c` either returns with `Q`, raises with `E`, or waits, faults or is refused: the last three end no
command, so nothing is asked of them. -/
structure Cmd.wp {α : Type} (x : Cmd α) (Q : α → Engine → Prop) (E : Err → Engine → Prop) (c : Engine) : Prop where
  ok : ∀ a c', x.run c = .ok a c' → Q a c'
  raise : ∀ e c', x.run c = .error (.raise e) c' → E e c'

section
variable {α β : Type} {Q Q' : α → Engine → Prop} {E E' : Err → Engine → Prop} {c : Engine}

theorem Cmd.wp_of_ok {x : Cmd α} {a : α} {c' : Engine} (h : x.run c = .ok a c') : x.wp Q E c ↔ Q a c' := by
  refine ⟨fun hw => hw.ok a c' h, fun hq => ⟨fun a₂ c₂ h₂ => ?_, fun e c₂ h₂ => ?_⟩⟩ <;>
    rw [h] at h₂ <;> cases h₂
  exact hq

theorem Cmd.wp_of_raise {x : Cmd α} {e : Err} {c' : Engine} (h : x.run c = .error (.raise e) c') :
    x.wp Q E c ↔ E e c' := by
  refine ⟨fun hw => hw.raise e c' h, fun he => ⟨fun a₂ c₂ h₂ => ?_, fun e c₂ h₂ => ?_⟩⟩ <;>
    rw [h] at h₂ <;> cases h₂
  exact he

/-- A wait, a fault and a refusal end no command. -/
theorem Cmd.wp_of_stop {x : Cmd α} {stop : Stop} {c' : Engine} (h : x.run c = .error stop c')
    (hs : ∀ e, stop ≠ .raise e) : x.wp Q E c := by
  refine ⟨fun a₂ c₂ h₂ => ?_, fun e c₂ h₂ => ?_⟩ <;> rw [h] at h₂ <;> cases h₂
  exact absurd rfl (hs e)

theorem Cmd.wp.mono {x : Cmd α} (h : x.wp Q E c) (hQ : ∀ a c', Q a c' → Q' a c') (hE : ∀ e c', E e c' → E' e c') :
    x.wp Q' E' c :=
  ⟨fun a c' hr => hQ a c' (h.ok a c' hr), fun e c' hr => hE e c' (h.raise e c' hr)⟩

/-- What holds after a run holds after every run that is the same. -/
theorem Cmd.wp.congr {x y : Cmd α} {c' : Engine} (h : y.wp Q E c') (hr : x.run c = y.run c') : x.wp Q E c :=
  ⟨fun a c₂ h₂ => h.ok a c₂ (hr ▸ h₂), fun e c₂ h₂ => h.raise e c₂ (hr ▸ h₂)⟩

theorem Cmd.wp_bind {x : Cmd α} {f : α → Cmd β} {Q : β → Engine → Prop}
    (h : x.wp (fun a c' => (f a).wp Q E c') E c) : (x >>= f).wp Q E c where
  ok b c'' hr := by
    obtain ⟨a, c', hx, hf⟩ := Cmd.bind_eq_ok hr
    exact (h.ok a c' hx).ok b c'' hf
  raise e c'' hr := by
    rcases Cmd.bind_eq_error hr with hx | ⟨a, c', hx, hf⟩
    · exact h.raise e c'' hx
    · exact (h.ok a c' hx).raise e c'' hf

theorem Cmd.wp_pure {a : α} (h : Q a c) : (pure a : Cmd α).wp Q E c := (Cmd.wp_of_ok rfl).mpr h

theorem Cmd.wp_get {Q : Engine → Engine → Prop} (h : Q c c) : (get : Cmd Engine).wp Q E c :=
  (Cmd.wp_of_ok (by rfl)).mpr h

theorem Cmd.wp_set {Q : PUnit → Engine → Prop} {c' : Engine} (h : Q ⟨⟩ c') : (set c' : Cmd PUnit).wp Q E c :=
  (Cmd.wp_of_ok (by rfl)).mpr h

theorem Cmd.wp_modify {Q : PUnit → Engine → Prop} {f : Engine → Engine} (h : Q ⟨⟩ (f c)) :
    (modify f : Cmd PUnit).wp Q E c :=
  (Cmd.wp_of_ok (by rfl)).mpr h

theorem Cmd.wp_raise {e : Err} (h : E e c) : (Machine.raise e : Cmd α).wp Q E c := (Cmd.wp_of_raise rfl).mpr h

theorem Cmd.wp_throw {stop : Stop} (h : ∀ e, stop ≠ .raise e) : (throw stop : Cmd α).wp Q E c := Cmd.wp_of_stop rfl h

/-- A command that reads the engine first goes on with the engine it starts from. -/
theorem Cmd.wp_get_bind {f : Engine → Cmd α} (h : (f c).wp Q E c) : (get >>= f).wp Q E c := Cmd.wp_bind (Cmd.wp_get h)

theorem Cmd.wp_ite {p : Prop} [Decidable p] {x y : Cmd α} (hx : p → x.wp Q E c) (hy : ¬ p → y.wp Q E c) :
    (if p then x else y).wp Q E c := by
  split
  · exact hx ‹_›
  · exact hy ‹_›

theorem wp_require {Q : Unit → Engine → Prop} {ok : Bool} {e : Err} (hok : ok = true → Q () c) (hno : ok = false → E e c) :
    (require ok e).wp Q E c :=
  Cmd.wp_ite (fun h => Cmd.wp_pure (hok h)) fun h => Cmd.wp_raise (hno (by simpa using h))

theorem wp_requireStream {Q : Unit → Engine → Prop} (hok : c.pstate ≠ .idle → Q () c)
    (hno : c.pstate = .idle → E .noStream c) : requireStream.wp Q E c :=
  Cmd.wp_get_bind (wp_require (fun h => hok (by simpa using h)) fun h => hno (by simpa using h))
end

/-! ### What a step that emits nothing keeps -/

/-- The bounds of the bit reader (10_state.md R42, 40_bitreader.md R121). -/
structure Engine.BitsBounded (c : Engine) : Prop where
  bitcnt_le : c.bitcnt.toNat ≤ 7
  bitacc_lt : c.bitacc.toNat < 2 ^ c.bitcnt.toNat
  srcPos_le : c.latch.ctrl.srcPull = false → c.srcPos.toNat ≤ c.latch.srcLen.toNat

theorem Engine.Inv.bitsBounded {c : Engine} (h : c.Inv) : c.BitsBounded :=
  ⟨h.bitcnt_le, h.bitacc_lt, h.srcPos_le⟩

/-- Between `c` and `c'` nothing was emitted and the sequencer did not move: every field the boundary invariant and history
agreement speak of is as it was, but for the bit reader, whose bounds are kept. -/
structure Engine.Quiet (c c' : Engine) : Prop where
  same : c' = { c' with
    latch := c.latch, ringCapReg := c.ringCapReg, pstate := c.pstate, streamErr := c.streamErr
    mem := c.mem, dstPos := c.dstPos, outSat := c.outSat
    ring := c.ring, ringIdx := c.ringIdx, ringFill := c.ringFill, lzRem := c.lzRem, lzDist := c.lzDist } := by rfl
  bits : c.BitsBounded → c'.BitsBounded := by exact fun h => { h with }

theorem Engine.Quiet.refl (c : Engine) : c.Quiet c := {}

/-- The engine after a quiet step, written over the engine before it. -/
theorem Engine.Quiet.exists_eq {c c' : Engine} (h : c.Quiet c') : ∃ d : Engine, c' = { d with
    latch := c.latch, ringCapReg := c.ringCapReg, pstate := c.pstate, streamErr := c.streamErr
    mem := c.mem, dstPos := c.dstPos, outSat := c.outSat
    ring := c.ring, ringIdx := c.ringIdx, ringFill := c.ringFill, lzRem := c.lzRem, lzDist := c.lzDist } :=
  ⟨c', h.same⟩

theorem Engine.Quiet.pstate {c c' : Engine} (h : c.Quiet c') : c'.pstate = c.pstate := by
  obtain ⟨d, rfl⟩ := h.exists_eq
  rfl

theorem Engine.Quiet.lzRem {c c' : Engine} (h : c.Quiet c') : c'.lzRem = c.lzRem := by
  obtain ⟨d, rfl⟩ := h.exists_eq
  rfl

theorem Engine.Quiet.trans {a b c : Engine} (h : a.Quiet b) (h' : b.Quiet c) : a.Quiet c := by
  obtain ⟨d, rfl⟩ := h.exists_eq
  exact ⟨h'.same, h'.bits ∘ h.bits⟩

/-- A quiet step keeps the boundary invariant. -/
theorem Engine.Quiet.inv {c c' : Engine} (h : c.Quiet c') (hi : c.Inv) : c'.Inv := by
  obtain ⟨hcnt, hacc, hsrc⟩ := h.bits hi.bitsBounded
  obtain ⟨d, rfl⟩ := h.exists_eq
  exact { hi with bitcnt_le := hcnt, bitacc_lt := hacc, srcPos_le := hsrc }

theorem Engine.Quiet.history {c c' : Engine} (h : c.Quiet c') (hi : c.HistoryAgrees) : c'.HistoryAgrees := by
  obtain ⟨d, rfl⟩ := h.exists_eq
  exact hi

/-! ### Quiet pieces of a command -/

/-- A piece that stays quiet up to its end, and whose errors are those an action of the sequencer can end a stream with. -/
structure Cmd.Quiet {α : Type} (x : Cmd α) : Prop where
  wp : ∀ c, x.wp (fun _ c' => c.Quiet c') (fun e c' => e.fromStep = true ∧ c.Quiet c') c

section
variable {α β : Type} {x : Cmd α} {f : α → Cmd β}

/-- A quiet piece in front: what follows starts from an engine that differs quietly. -/
theorem Cmd.Quiet.wp_bind {Q : β → Engine → Prop} {E : Err → Engine → Prop} {c : Engine} (hx : x.Quiet)
    (hE : ∀ e c', e.fromStep = true → c.Quiet c' → E e c') (hf : ∀ a c', c.Quiet c' → (f a).wp Q E c') :
    (x >>= f).wp Q E c :=
  Cmd.wp_bind ((hx.wp c).mono hf fun e c' h => hE e c' h.1 h.2)

theorem Cmd.Quiet.bind (hx : x.Quiet) (hf : ∀ a, (f a).Quiet) : (x >>= f).Quiet := ⟨fun _ =>
  hx.wp_bind (fun _ _ he hq => ⟨he, hq⟩) fun a c' hq =>
    ((hf a).wp c').mono (fun _ _ h => hq.trans h) fun _ _ h => ⟨h.1, hq.trans h.2⟩⟩

theorem Cmd.Quiet.ite {p : Prop} [Decidable p] {y : Cmd α} (hx : x.Quiet) (hy : y.Quiet) :
    (if p then x else y).Quiet := by
  split
  · exact hx
  · exact hy
end

theorem quiet_pure {α : Type} (a : α) : (pure a : Cmd α).Quiet := ⟨fun c => Cmd.wp_pure (.refl c)⟩

theorem Cmd.Quiet.map {α β : Type} {x : Cmd α} (hx : x.Quiet) (g : α → β) : (g <$> x).Quiet := by
  rw [← bind_pure_comp]
  exact hx.bind fun a => quiet_pure (g a)

theorem quiet_get : (get : Cmd Engine).Quiet := ⟨fun c => Cmd.wp_get (.refl c)⟩

theorem quiet_raise {α : Type} {e : Err} (h : e.fromStep = true) : (raise e : Cmd α).Quiet :=
  ⟨fun c => Cmd.wp_raise ⟨h, .refl c⟩⟩

theorem quiet_require {ok : Bool} {e : Err} (h : e.fromStep = true) : (require ok e).Quiet :=
  .ite (quiet_pure ()) (quiet_raise h)

theorem quiet_throw {α : Type} {stop : Stop} (h : ∀ e, stop ≠ .raise e) : (throw stop : Cmd α).Quiet :=
  ⟨fun _ => Cmd.wp_throw h⟩

theorem quiet_modify {f : Engine → Engine} (h : ∀ c : Engine, c.Quiet (f c)) : (modify f : Cmd PUnit).Quiet :=
  ⟨fun c => Cmd.wp_modify (h c)⟩

/-! ### The bit reader stays within its bounds: 40_bitreader.md R121 to R123 -/

theorem pullByte_wp (c : Engine) :
    pullByte.wp (fun _ c' => ∃ p, c' = { c with ports := p })
      (fun e c' => e = .srcExhausted ∧ ∃ p, c' = { c with ports := p }) c := by
  refine Cmd.wp_get_bind ?_
  split
  · exact Cmd.wp_throw nofun
  · exact Cmd.wp_bind (Cmd.wp_set (Cmd.wp_raise ⟨rfl, _, rfl⟩))
  · exact Cmd.wp_ite (fun _ => Cmd.wp_throw nofun) fun _ => Cmd.wp_bind (Cmd.wp_set (Cmd.wp_pure ⟨_, rfl⟩))

theorem memRead_wp (a : Addr) (c : Engine) (E : Err → Engine → Prop) : (memRead a).wp (fun _ c' => c' = c) E c := by
  refine Cmd.wp_get_bind (Cmd.wp_ite (fun _ => ?_) fun _ => Cmd.wp_throw nofun)
  split
  · exact Cmd.wp_pure rfl
  · exact Cmd.wp_throw nofun

theorem residentByte_wp (c : Engine) :
    residentByte.wp (fun _ c' => c' = c ∧ c.srcPos ≠ c.latch.srcLen) (fun e c' => e = .srcExhausted ∧ c' = c) c :=
  Cmd.wp_get_bind (Cmd.wp_ite (fun _ => Cmd.wp_raise ⟨rfl, rfl⟩) fun h =>
    (memRead_wp _ c _).mono (fun _ _ hc => ⟨hc, h⟩) fun _ _ => id)

/-- Fetching a byte is quiet: a resident byte is only read before the end of the slice. -/
theorem quiet_fetchSourceByte : fetchSourceByte.Quiet := by
  refine ⟨fun c => Cmd.wp_get_bind (Cmd.wp_ite (fun hp => ?_) fun _ => ?_)⟩
  · refine Cmd.wp_bind ((pullByte_wp c).mono ?_ ?_)
    · rintro b _ ⟨p, rfl⟩
      refine Cmd.wp_bind (Cmd.wp_modify (Cmd.wp_pure ?_))
      exact { bits := fun hb => { hb with srcPos_le := fun h => absurd (hp.symm.trans h) (by decide) } }
    · rintro _ _ ⟨rfl, p, rfl⟩
      exact ⟨rfl, {}⟩
  · refine Cmd.wp_bind ((residentByte_wp c).mono ?_ ?_)
    · rintro b _ ⟨rfl, hne⟩
      refine Cmd.wp_bind (Cmd.wp_modify (Cmd.wp_pure { bits := fun hb => { hb with srcPos_le := fun h => ?_ } }))
      have hle := hb.srcPos_le h
      simp only
      bv_omega
    · rintro _ _ ⟨rfl, rfl⟩
      exact ⟨rfl, .refl _⟩

/-- Taking a bit after a byte was loaded leaves 7 bits. -/
theorem Engine.quiet_takeBit_loaded (c : Engine) (b : Byte) :
    c.Quiet { c with bitacc := b.setWidth 32 >>> 1, bitcnt := 8 - 1 } where
  bits hb := { hb with
    bitcnt_le := by simp
    bitacc_lt := by
      have hlt : (b.setWidth 32).toNat < 2 ^ 8 := by simpa using (Nat.mod_le _ _).trans_lt b.isLt
      simp only [BitVec.toNat_ushiftRight, Nat.shiftRight_eq_div_pow]
      exact Nat.div_lt_of_lt_mul hlt }

/-- Taking a held bit leaves one bit less. -/
theorem Engine.quiet_takeBit_held (c : Engine) (h : c.bitcnt ≠ 0) :
    c.Quiet { c with bitacc := c.bitacc >>> 1, bitcnt := c.bitcnt - 1 } where
  bits hb := by
    obtain ⟨hcnt, hacc, hsrc⟩ := hb
    have hpred : (c.bitcnt - 1).toNat + 1 = c.bitcnt.toNat := by bv_omega
    rw [← hpred] at hcnt
    rw [← hpred, Nat.pow_succ] at hacc
    refine ⟨by simp only; omega, ?_, hsrc⟩
    simp only [BitVec.toNat_ushiftRight, Nat.shiftRight_eq_div_pow]
    omega

theorem quiet_getBit : getBit.Quiet := by
  refine ⟨fun c => Cmd.wp_bind (Cmd.wp_get_bind (Cmd.wp_ite (fun _ => ?_) fun h => ?_))⟩
  · refine quiet_fetchSourceByte.wp_bind (fun _ _ he hq => ⟨he, hq⟩) fun b c' hq => Cmd.wp_modify ?_
    exact Cmd.wp_get_bind (Cmd.wp_bind (Cmd.wp_set (Cmd.wp_pure (hq.trans (c'.quiet_takeBit_loaded b)))))
  · exact Cmd.wp_pure (Cmd.wp_get_bind (Cmd.wp_bind (Cmd.wp_set (Cmd.wp_pure (c.quiet_takeBit_held h)))))

/-- `GetBits` is quiet, and `k` more bits on `i` bits give a value of at most `i + k` bits. -/
theorem getBitsLoop_wp (k i : Nat) (v : Word) (hv : v.toNat < 2 ^ i) (c : Engine) :
    (getBitsLoop k i v).wp (fun w c' => w.toNat < 2 ^ (i + k) ∧ c.Quiet c') (fun e c' => e.fromStep = true ∧ c.Quiet c')
      c := by
  induction k generalizing i v c with
  | zero => exact Cmd.wp_pure ⟨hv, .refl c⟩
  | succ k ih =>
    refine quiet_getBit.wp_bind (fun _ _ he hq => ⟨he, hq⟩) fun b c' hq => ?_
    have hv' : (v ||| ((BitVec.ofBool b).setWidth 32 <<< i)).toNat < 2 ^ (i + 1) := by
      rw [BitVec.toNat_or]
      refine Nat.or_lt_two_pow (hv.trans (Nat.pow_lt_pow_succ (by decide))) ?_
      rw [BitVec.toNat_shiftLeft, Nat.shiftLeft_eq]
      refine (Nat.mod_le _ _).trans_lt ?_
      cases b <;> simp [Nat.pow_succ]
    rw [← Nat.add_assoc, Nat.add_right_comm]
    exact (ih _ _ hv' c').mono (fun _ _ h => ⟨h.1, hq.trans h.2⟩) fun _ _ h => ⟨h.1, hq.trans h.2⟩

theorem getBits_wp (n : Nat) (c : Engine) :
    (getBits n).wp (fun w c' => w.toNat < 2 ^ n ∧ c.Quiet c') (fun e c' => e.fromStep = true ∧ c.Quiet c') c := by
  have h := getBitsLoop_wp n 0 0 (by decide) c
  rwa [Nat.zero_add] at h

theorem quiet_getBits (n : Nat) : (getBits n).Quiet :=
  ⟨fun c => (getBits_wp n c).mono (fun _ _ h => h.2) fun _ _ => id⟩

theorem quiet_alignBits : alignBits.Quiet :=
  quiet_modify fun _ => { bits := fun hb => { hb with bitcnt_le := by simp, bitacc_lt := by simp } }

/-! ### The Huffman engine and the dynamic header are quiet -/

theorem quiet_treeEntry (s : Slot) (table : Cells (BitVec 9)) (i : Nat) : (treeEntry s table i).Quiet := by
  unfold treeEntry
  cases table.read i with
  | some v => exact quiet_pure v
  | none => exact quiet_throw (by simp)

theorem quiet_decodeLoop (s : Slot) (t : Tree) (k l code first index : Nat) :
    (decodeLoop s t k l code first index).Quiet := by
  induction k generalizing l code first index with
  | zero => exact quiet_raise rfl
  | succ k ih =>
    exact quiet_getBit.bind fun b => (quiet_treeEntry s t.count l).bind fun n => .ite (quiet_treeEntry s t.trans _) (ih _ _ _ _)

theorem quiet_decodeSymbol (s : Slot) : (decodeSymbol s).Quiet :=
  quiet_get.bind fun _ => (quiet_require rfl).bind fun _ => quiet_decodeLoop _ _ _ _ _ _ _

theorem quiet_lenRead (i : Nat) : (lenRead i).Quiet := by
  refine quiet_get.bind fun c => ?_
  cases c.len.read i with
  | some v => exact quiet_pure v
  | none => exact quiet_throw (by simp)

theorem quiet_lenWrite (i : Nat) (v : BitVec 4) : (lenWrite i v).Quiet := quiet_modify fun _ => {}

theorem quiet_readLens (base num : Nat) : (readLens base num).Quiet := by
  induction num generalizing base with
  | zero => exact quiet_pure []
  | succ num ih => exact (quiet_lenRead base).bind fun v => (ih (base + 1)).bind fun rest => quiet_pure (v :: rest)

theorem quiet_buildTree (s : Slot) (ls : List (BitVec 4)) : (buildTree s ls).Quiet := by
  have hset (c : Engine) (t : Tree) : c.Quiet (c.setTree s t) := by cases s <;> exact {}
  exact ⟨fun c => Cmd.wp_get_bind (Cmd.wp_ite (fun _ => Cmd.wp_bind (Cmd.wp_set (Cmd.wp_raise ⟨rfl, hset c _⟩)))
    fun _ => Cmd.wp_set (hset c _))⟩

theorem quiet_loadFixed : loadFixed.Quiet :=
  (quiet_buildTree .lt fixedLtLengths).bind fun _ => quiet_buildTree .dt fixedDtLengths

theorem quiet_fillLens (v : BitVec 4) (i k : Nat) : (fillLens v i k).Quiet := by
  induction k generalizing i with
  | zero => exact quiet_pure ()
  | succ k ih => exact (quiet_lenWrite i v).bind fun _ => ih (i + 1)

theorem quiet_readCodeLens (places : List Nat) : (readCodeLens places).Quiet := by
  induction places with
  | nil => exact quiet_pure ()
  | cons p rest ih => exact (quiet_getBits 3).bind fun v => (quiet_lenWrite p _).bind fun _ => ih

theorem quiet_repeatCode (sym num : Nat) : (repeatCode sym num).Quiet := by
  unfold repeatCode
  refine .ite (.ite (quiet_raise rfl) ?_) (.ite ?_ ?_)
  · exact (quiet_lenRead _).bind fun v => (quiet_getBits 2).bind fun r => quiet_pure _
  · exact (quiet_getBits 3).bind fun r => quiet_pure _
  · exact (quiet_getBits 7).bind fun r => quiet_pure _

theorem quiet_readLengths (total passes num : Nat) : (readLengths total passes num).Quiet := by
  induction passes generalizing num with
  | zero => exact quiet_pure ()
  | succ k ih =>
    unfold readLengths
    refine .ite ((quiet_decodeSymbol .ct).bind fun sym => .ite ?_ ?_) (quiet_pure ())
    · exact (quiet_lenWrite num _).bind fun _ => ih _
    · exact (quiet_repeatCode _ num).bind fun r => (quiet_require rfl).bind fun _ =>
        (quiet_fillLens _ _ _).bind fun _ => ih _

theorem quiet_dynamicHeader : dynamicHeader.Quiet :=
  (quiet_getBits 5).bind fun _ => (quiet_getBits 5).bind fun _ => (quiet_getBits 4).bind fun _ =>
    (quiet_require rfl).bind fun _ => (quiet_fillLens _ _ _).bind fun _ => (quiet_readCodeLens _).bind fun _ =>
    (quiet_readLens _ _).bind fun _ => (quiet_buildTree _ _).bind fun _ => (quiet_readLengths _ _ _).bind fun _ =>
    (quiet_readLens _ _).bind fun _ => (quiet_buildTree _ _).bind fun _ => (quiet_readLens _ _).bind fun _ =>
    quiet_buildTree _ _

/-! ### Reading history is quiet -/

theorem quiet_readDest (pos : Word) : (readDest pos).Quiet := by
  refine ⟨fun c => Cmd.wp_get_bind ?_⟩
  split
  · exact Cmd.wp_throw nofun
  · exact Cmd.wp_bind (Cmd.wp_set (Cmd.wp_pure {}))

theorem quiet_ringRead (i : Nat) : (ringRead i).Quiet := by
  refine quiet_get.bind fun c => ?_
  cases c.ring.read i with
  | some b => exact quiet_pure b
  | none => exact quiet_throw (by simp)

theorem quiet_memRead (a : Addr) : (memRead a).Quiet :=
  ⟨fun c => (memRead_wp a c fun _ _ => False).mono (fun _ _ h => h ▸ .refl c) fun _ _ => False.elim⟩

theorem quiet_histRead (d : Nat) : (histRead d).Quiet :=
  quiet_get.bind fun _ => .ite (quiet_memRead _) (.ite (quiet_ringRead _) (quiet_readDest _))

/-! ### One emitted byte: 43_window.md R190, R191 -/

/-- The engine after `RingWrite(b)` (43_window.md R191). -/
def Engine.ringWritten (c : Engine) (b : Byte) : Engine :=
  { c with
    ring := c.ring.write c.ringIdx.toNat b
    ringIdx := BitVec.ofNat 16 ((c.ringIdx.toNat + 1) % c.latch.ringCap.toNat)
    ringFill := BitVec.ofNat 16 (min (c.ringFill.toNat + 1) c.latch.ringCap.toNat) }

/-- The engine after every effect of `Emit(b)` but the ring's (43_window.md R190). -/
def Engine.counted (c : Engine) (b : Byte) : Engine :=
  { c with
    mem := if c.latch.ctrl.dstRes then c.mem.write (c.latch.dstBase + c.dstPos).toNat b else c.mem
    dstPos := if c.latch.ctrl.dstRes then c.dstPos + 1 else c.dstPos
    ports :=
      if c.latch.ctrl.dstPush then
        { c.ports with pushReady := c.ports.pushReady - 1, log := c.ports.log ++ [.push b] }
      else c.ports
    ckState := c.ckKind.update c.ckState b
    outCount := c.outCount + 1
    outSat := BitVec.ofNat 16 (min (c.outSat.toNat + 1) 32768) }

theorem Engine.emitted_eq (c : Engine) (b : Byte) :
    c.emitted b = if c.latch.ringCap = 0 then c.counted b else (c.counted b).ringWritten b := by
  split
  · simp only [Engine.emitted, Engine.counted, if_pos ‹c.latch.ringCap = 0›]
  · simp only [Engine.emitted, Engine.counted, Engine.ringWritten, if_neg ‹¬c.latch.ringCap = 0›]

@[simp] theorem Engine.counted_latch (c : Engine) (b : Byte) : (c.counted b).latch = c.latch := rfl

section
variable {b : Byte} {c : Engine} {Q : Unit → Engine → Prop} {E : Err → Engine → Prop}

theorem emitResident_wp
    (h : Q () { c with
      mem := if c.latch.ctrl.dstRes then c.mem.write (c.latch.dstBase + c.dstPos).toNat b else c.mem
      dstPos := if c.latch.ctrl.dstRes then c.dstPos + 1 else c.dstPos }) : (emitResident b).wp Q E c := by
  refine Cmd.wp_get_bind (Cmd.wp_ite (fun hres => ?_) fun hres => ?_)
  · rw [if_pos hres, if_pos hres] at h
    refine Cmd.wp_bind (Cmd.wp_get_bind (Cmd.wp_ite (fun _ => ?_) fun _ => Cmd.wp_throw nofun))
    exact Cmd.wp_set (Cmd.wp_modify h)
  · rw [if_neg hres, if_neg hres] at h
    exact Cmd.wp_pure h

theorem emitPush_wp
    (h : Q () { c with
      ports :=
        if c.latch.ctrl.dstPush then
          { c.ports with pushReady := c.ports.pushReady - 1, log := c.ports.log ++ [.push b] }
        else c.ports }) : (emitPush b).wp Q E c := by
  refine Cmd.wp_get_bind (Cmd.wp_ite (fun hpush => ?_) fun hpush => ?_)
  · rw [if_pos hpush] at h
    refine Cmd.wp_get_bind ?_
    split
    · exact Cmd.wp_throw nofun
    · rename_i n hn
      rw [hn] at h
      exact Cmd.wp_set h
  · rw [if_neg hpush] at h
    exact Cmd.wp_pure h

theorem emitRing_wp (h : Q () (if c.latch.ringCap = 0 then c else c.ringWritten b)) : (emitRing b).wp Q E c := by
  refine Cmd.wp_get_bind (Cmd.wp_ite (fun h0 => ?_) fun h0 => ?_)
  · rw [if_pos h0] at h
    exact Cmd.wp_pure h
  · rw [if_neg h0] at h
    exact Cmd.wp_modify h

/-- A completed `Emit` has had every effect, and it raises nothing. -/
theorem emit_wp (h : Q () (c.emitted b)) : (emit b).wp Q E c := by
  refine Cmd.wp_bind (emitResident_wp (Cmd.wp_bind (emitPush_wp (Cmd.wp_bind (emitRing_wp ?_)))))
  refine Cmd.wp_bind (Cmd.wp_modify (Cmd.wp_modify ?_))
  rw [c.emitted_eq] at h
  by_cases h0 : c.latch.ringCap = 0
  · rw [if_pos h0] at h ⊢
    exact h
  · rw [if_neg h0] at h ⊢
    exact h
end

theorem Engine.toNat_ringWritten_ringIdx (c : Engine) (b : Byte) (h : c.latch.ringCap ≠ 0) :
    (c.ringWritten b).ringIdx.toNat = (c.ringIdx.toNat + 1) % c.latch.ringCap.toNat := by
  have hpos : 0 < c.latch.ringCap.toNat := by bv_omega
  exact (BitVec.toNat_ofNat _ _).trans (Nat.mod_eq_of_lt ((Nat.mod_lt _ hpos).trans c.latch.ringCap.isLt))

theorem Engine.toNat_ringWritten_ringFill (c : Engine) (b : Byte) :
    (c.ringWritten b).ringFill.toNat = min (c.ringFill.toNat + 1) c.latch.ringCap.toNat :=
  (BitVec.toNat_ofNat _ _).trans (Nat.mod_eq_of_lt ((Nat.min_le_right _ _).trans_lt c.latch.ringCap.isLt))

theorem Engine.toNat_counted_outSat (c : Engine) (b : Byte) :
    (c.counted b).outSat.toNat = min (c.outSat.toNat + 1) Config.windowMax :=
  (BitVec.toNat_ofNat _ _).trans (Nat.mod_eq_of_lt ((Nat.min_le_right _ _).trans_lt (by decide)))

/-- The resident destination has room for `n` more bytes (43_window.md R199). -/
def Engine.HasRoom (c : Engine) (n : Nat) : Prop :=
  c.latch.ctrl.dstRes = true → c.dstPos.toNat + n ≤ c.latch.dstLen.toNat

theorem Engine.toNat_counted_dstPos (c : Engine) (b : Byte) {n : Nat} (hroom : c.HasRoom (n + 1)) :
    (c.counted b).dstPos.toNat = if c.latch.ctrl.dstRes then c.dstPos.toNat + 1 else c.dstPos.toNat := by
  simp only [Engine.counted]
  split
  · have := hroom ‹_›
    bv_omega
  · rfl

theorem Engine.HasRoom.emitted {c : Engine} {n : Nat} (hroom : c.HasRoom (n + 1)) (b : Byte) :
    (c.emitted b).HasRoom n := by
  intro hres
  have hres' : c.latch.ctrl.dstRes = true := hres
  have hpos := c.toNat_counted_dstPos b hroom
  have := hroom hres'
  rw [if_pos hres'] at hpos
  show (c.counted b).dstPos.toNat + n ≤ c.latch.dstLen.toNat
  omega

theorem Engine.covered_bounds {c : Engine} {d : Nat} (h : c.covered d = true) : 1 ≤ d ∧ d ≤ Config.windowMax := by
  simp only [Engine.covered, Bool.and_eq_true, decide_eq_true_eq] at h
  exact h.1

/-- A distance stays covered when no position counter falls. -/
theorem Engine.covered_mono {c c' : Engine} {d : Nat} (hl : c'.latch = c.latch) (hd : c.dstPos.toNat ≤ c'.dstPos.toNat)
    (hr : c.ringFill.toNat ≤ c'.ringFill.toNat) (ho : c.outSat.toNat ≤ c'.outSat.toNat) (h : c.covered d = true) :
    c'.covered d = true := by
  simp only [Engine.covered, hl, Bool.and_eq_true, Bool.or_eq_true, decide_eq_true_eq] at h ⊢
  exact h.imp_right (Or.imp (Or.imp (And.imp_right hd.trans') (And.imp_right hr.trans')) (And.imp_right ho.trans'))

/-- A ring write keeps the invariant. -/
theorem Engine.Inv.ringWritten {c : Engine} (hi : c.Inv) (hcap : c.latch.ringCap ≠ 0) (b : Byte) :
    (c.ringWritten b).Inv where
  __ := hi
  ringFill_le := by
    rw [c.toNat_ringWritten_ringFill]
    exact Nat.min_le_right _ _
  ringIdx_lt _ := by
    have hpos : 0 < c.latch.ringCap.toNat := by bv_omega
    rw [c.toNat_ringWritten_ringIdx b hcap]
    exact Nat.mod_lt _ hpos
  ring_off h := absurd h hcap
  copy_dist hp := by
    obtain ⟨h1, hmax, hcov⟩ := hi.copy_dist hp
    refine ⟨h1, hmax, Engine.covered_mono (c := c) rfl le_rfl ?_ le_rfl hcov⟩
    have := hi.ringFill_le
    rw [c.toNat_ringWritten_ringFill]
    omega

/-- The other effects of `Emit` keep the invariant where the destination has room. -/
theorem Engine.Inv.counted {c : Engine} (hi : c.Inv) {n : Nat} (hroom : c.HasRoom (n + 1)) (b : Byte) :
    (c.counted b).Inv where
  __ := hi
  copy_dist hp := by
    obtain ⟨h1, hmax, hcov⟩ := hi.copy_dist hp
    refine ⟨h1, hmax, Engine.covered_mono (c := c) rfl ?_ le_rfl ?_ hcov⟩
    · rw [c.toNat_counted_dstPos b hroom]
      split <;> omega
    · have := hi.outSat_le
      rw [c.toNat_counted_outSat]
      omega
  dstPos_le (hres : c.latch.ctrl.dstRes = true) := by
    have := hroom hres
    rw [c.toNat_counted_dstPos b hroom, if_pos hres, c.counted_latch]
    omega
  dst_off (hres : c.latch.ctrl.dstRes = false) := by
    rw [← hi.dst_off hres]
    exact if_neg (by simpa using hres)
  outSat_le := by
    rw [c.toNat_counted_outSat]
    exact Nat.min_le_right _ _
  outSat_dst (hres : c.latch.ctrl.dstRes = true) := by
    have := hi.outSat_dst hres
    rw [c.toNat_counted_outSat, c.toNat_counted_dstPos b hroom, if_pos hres]
    omega

/-- An emitted byte keeps the boundary invariant where the destination has room. -/
theorem Engine.Inv.emitted {c : Engine} (hi : c.Inv) {n : Nat} (hroom : c.HasRoom (n + 1)) (b : Byte) :
    (c.emitted b).Inv := by
  rw [c.emitted_eq]
  split
  · exact hi.counted hroom b
  · exact (hi.counted hroom b).ringWritten ‹_› b

/-! ### History agreement: 10_state.md R43 -/

/-- A ring write moves every byte one place away. -/
theorem Engine.ringPlace_ringWritten (c : Engine) (b : Byte) (hcap : c.latch.ringCap ≠ 0) (d : Nat) :
    (c.ringWritten b).ringPlace (d + 1) = c.ringPlace d := by
  unfold Engine.ringPlace
  rw [c.toNat_ringWritten_ringIdx b hcap]
  simp only [Engine.ringWritten]
  push_cast
  rw [Int.emod_sub_emod, add_sub_add_right_eq_sub]

/-- Distance 0 names the place the next ring write goes to. -/
theorem Engine.ringPlace_zero (c : Engine) (hlt : c.ringIdx.toNat < c.latch.ringCap.toNat) :
    c.ringPlace 0 = c.ringIdx.toNat := by
  unfold Engine.ringPlace
  rw [Int.natCast_zero, Int.sub_zero, Int.emod_eq_of_lt (by omega) (by omega), Int.toNat_natCast]

/-- The next ring write goes to none of the places of the last `ringCap - 1` bytes. -/
theorem Engine.ringPlace_ne_ringIdx (c : Engine) (hlt : c.ringIdx.toNat < c.latch.ringCap.toNat) {d : Nat} (h1 : 1 ≤ d)
    (hd : d < c.latch.ringCap.toNat) : c.ringPlace d ≠ c.ringIdx.toNat := by
  unfold Engine.ringPlace
  by_cases hle : d ≤ c.ringIdx.toNat
  · rw [Int.emod_eq_of_lt (by omega) (by omega)]
    omega
  · rw [← Int.add_emod_right, Int.emod_eq_of_lt (by omega) (by omega)]
    omega

/-- What the ring holds after a ring write: the new byte at distance 1, the older ones one place further. -/
theorem Engine.read_ringWritten (c : Engine) (b : Byte) (hcap : c.latch.ringCap ≠ 0)
    (hlt : c.ringIdx.toNat < c.latch.ringCap.toNat) {d : Nat} (hd : d < c.latch.ringCap.toNat) :
    (c.ringWritten b).ring.read ((c.ringWritten b).ringPlace (d + 1)) =
      if d = 0 then some b else c.ring.read (c.ringPlace d) := by
  rw [c.ringPlace_ringWritten b hcap]
  simp only [Engine.ringWritten]
  split
  · subst d
    rw [c.ringPlace_zero hlt, Cells.read_write_same]
  · exact Cells.read_write_other _ _ _ _ (c.ringPlace_ne_ringIdx hlt (by omega) hd)

/-- What the resident destination holds after a byte: the new byte at distance 1, the older ones one place further. -/
theorem Engine.read_counted (c : Engine) (b : Byte) (hres : c.latch.ctrl.dstRes = true) {d : Nat}
    (hd : d ≤ c.dstPos.toNat) :
    (c.counted b).mem.read ((c.counted b).latch.dstBase + (c.counted b).dstPos - BitVec.ofNat 32 (d + 1)).toNat =
      if d = 0 then some b else c.mem.read (c.latch.dstBase + c.dstPos - BitVec.ofNat 32 d).toNat := by
  have haddr : c.latch.dstBase + (c.dstPos + 1) - BitVec.ofNat 32 (d + 1) = c.latch.dstBase + c.dstPos - BitVec.ofNat 32 d := by
    rw [BitVec.ofNat_add, ← add_assoc]
    exact add_sub_add_right_eq_sub _ _ _
  simp only [Engine.counted, if_pos hres, haddr]
  split
  · subst d
    simp
  · refine Cells.read_write_other _ _ _ _ ?_
    have := c.dstPos.isLt
    bv_omega

/-- An emitted byte keeps history agreement where the destination has room: both stores take it at distance 1. -/
theorem Engine.HistoryAgrees.emitted {c : Engine} (ha : c.HistoryAgrees) (hi : c.Inv) {n : Nat} (hroom : c.HasRoom (n + 1))
    (b : Byte) : (c.emitted b).HistoryAgrees := by
  rw [c.emitted_eq]
  by_cases hcap : c.latch.ringCap = 0
  · rw [if_pos hcap]
    intro _ d h1 _ hfill
    have hzero : c.ringFill = 0 := (hi.ring_off hcap).2
    simp [Engine.counted, hzero] at hfill
    omega
  · rw [if_neg hcap]
    intro (hres : c.latch.ctrl.dstRes = true) d h1 hpos hfill
    obtain ⟨d, rfl⟩ : ∃ k, d = k + 1 := ⟨d - 1, by omega⟩
    rw [(c.counted b).toNat_ringWritten_ringFill] at hfill
    have hpos' : d + 1 ≤ (c.counted b).dstPos.toNat := hpos
    rw [c.toNat_counted_dstPos b hroom, if_pos hres] at hpos'
    have hfill' : d + 1 ≤ min (c.ringFill.toNat + 1) c.latch.ringCap.toNat := hfill
    refine (c.read_counted b hres (by omega)).trans ?_
    rw [(c.counted b).read_ringWritten b hcap (hi.ringIdx_lt hcap) (by omega)]
    split
    · rfl
    · exact ha hres d (by omega) (by omega) (by omega)

/-! ### Boundary states -/

/-- A command boundary: the invariant of 10_state.md R42 and, where it is asked for (`h`), the history agreement of R43. -/
structure Engine.Boundary (h : Prop) (c : Engine) : Prop where
  inv : c.Inv
  history : h → c.HistoryAgrees

theorem Engine.Boundary.quiet {h : Prop} {c c' : Engine} (hc : c.Boundary h) (hq : c.Quiet c') : c'.Boundary h :=
  ⟨hq.inv hc.inv, fun hh => hq.history (hc.history hh)⟩

theorem Engine.Boundary.emitted {h : Prop} {c : Engine} {n : Nat} (hc : c.Boundary h) (hroom : c.HasRoom (n + 1)) (b : Byte) :
    (c.emitted b).Boundary h :=
  ⟨hc.inv.emitted hroom b, fun hh => (hc.history hh).emitted hc.inv hroom b⟩

theorem Engine.HasRoom.quiet {n : Nat} {c c' : Engine} (hroom : c.HasRoom n) (hq : c.Quiet c') : c'.HasRoom n := by
  obtain ⟨d, rfl⟩ := hq.exists_eq
  exact hroom

/-- The room of R199 is room for as many bytes. -/
theorem Engine.Inv.hasRoom {c : Engine} (hi : c.Inv) {n : Nat} (hn : c.latch.ctrl.dstRes = true → n ≤ c.room) :
    c.HasRoom n := by
  intro hres
  have hle := hi.dstPos_le hres
  have hn := hn hres
  unfold Engine.room at hn
  bv_omega

/-- Within the budget of a `STEP` there is room (44_inflate.md R224). -/
theorem Engine.Inv.hasRoom_budget {c : Engine} (hi : c.Inv) (cap : BitVec 26) : c.HasRoom (c.budget cap) := by
  refine hi.hasRoom fun hres => ?_
  rw [Engine.budget, if_pos hres]
  exact Nat.min_le_right _ _

/-! ### The sequencer loop: 44_inflate.md R224, R225, R235 -/

/-- `TRAILER` is left inside the same `STEP`, for `DONE` unless an error ends the stream (44_inflate.md R234). -/
def PState.settled : PState → PState
  | .trailer => .done
  | p => p

theorem PState.failed_settled (p : PState) : p.settled.failed = p.failed := by cases p <;> rfl

theorem PState.settled_of_ne {p : PState} (h : p ≠ .trailer) : p.settled = p := by
  cases p with
  | trailer => exact absurd rfl h
  | _ => rfl

theorem PState.settled_ne_trailer (p : PState) : p.settled ≠ .trailer := by cases p <;> decide

theorem Err.failed_terminal (e : Err) : e.terminal.failed = true := by cases e <;> rfl

/-- The engine as the boundary invariant sees it from inside the loop. -/
def Engine.settled (c : Engine) : Engine := { c with pstate := c.pstate.settled }

theorem Engine.settled_of_ne {c : Engine} (h : c.pstate ≠ .trailer) : c.settled = c := by
  rw [Engine.settled, PState.settled_of_ne h]

/-- Between two actions of the sequencer, with `n` bytes of the budget left: a boundary but for `TRAILER`, which is entered
only with budget left (44_inflate.md R224). -/
structure Engine.InLoop (h : Prop) (n : Nat) (c : Engine) : Prop where
  boundary : c.settled.Boundary h
  alive : c.pstate.failed = false
  room : c.HasRoom n
  trailer : c.pstate = .trailer → 1 ≤ n

/-- The loop after an action has raised. -/
def Engine.LoopRaised (h : Prop) (n : Nat) (e : Err) (c : Engine) : Prop := e.fromStep = true ∧ c.InLoop h n

section
variable {h : Prop} {n : Nat} {c c' : Engine}

/-- A quiet step of the engine is one of the engine as the boundary invariant sees it. -/
theorem Engine.Quiet.settled (hq : c.Quiet c') : c.settled.Quiet c'.settled := by
  have hb := hq.bits
  obtain ⟨d, rfl⟩ := hq.exists_eq
  exact ⟨rfl, fun h => { hb { h with } with }⟩

theorem Engine.InLoop.quiet (hl : c.InLoop h n) (hq : c.Quiet c') : c'.InLoop h n := by
  have hboundary := hl.boundary.quiet hq.settled
  have hroom := hl.room.quiet hq
  obtain ⟨d, rfl⟩ := hq.exists_eq
  exact { hl with boundary := hboundary, room := hroom }

theorem Engine.InLoop.streamErr_eq (hl : c.InLoop h n) : c.streamErr = .none := by
  by_contra hne
  have hf : c.pstate.settled.failed = true := hl.boundary.inv.streamErr_iff.mp hne
  rw [PState.failed_settled, hl.alive] at hf
  cases hf

theorem Engine.InLoop.exit (hl : c.InLoop h n) (hne : c.pstate ≠ .trailer) : c.Boundary h :=
  Engine.settled_of_ne hne ▸ hl.boundary

theorem Engine.InLoop.emitted (hl : c.InLoop h (n + 1)) (hne : c.pstate ≠ .trailer) (b : Byte) :
    (c.emitted b).InLoop h n where
  boundary := by
    rw [Engine.settled_of_ne (c := c.emitted b) hne]
    exact (hl.exit hne).emitted hl.room b
  alive := hl.alive
  room := hl.room.emitted b
  trailer ht := absurd ht hne

/-- The sequencer moves to a state in which the stream goes on or is done. -/
theorem Engine.InLoop.goTo (hl : c.InLoop h n) {p : PState} (halive : p.failed = false) (hcopy : p ≠ .copy)
    (htrailer : p = .trailer → 1 ≤ n) : ({ c with pstate := p } : Engine).InLoop h n where
  boundary := by
    have hf : p.settled.failed = false := p.failed_settled.trans halive
    refine ⟨{ hl.boundary.inv with
      copy_dist := fun hp => absurd hp ?_
      not_trailer := p.settled_ne_trailer
      streamErr_iff := ?_
      streamErr_class := fun hp => absurd (hf.symm.trans hp) (by decide) }, hl.boundary.history⟩
    · cases p <;> simp [Engine.settled, PState.settled] at hcopy ⊢
    · simp [Engine.settled, hl.streamErr_eq, hf]
  alive := halive
  room := hl.room
  trailer := htrailer

/-- An error of an action makes the stream terminal, and that is a boundary (44_inflate.md R235). -/
theorem Engine.InLoop.fail (hl : c.InLoop h n) {e : Err} (he : e.fromStep = true) (produced : Word) :
    (c.takeStepError e e.terminal produced).Boundary h where
  inv := { hl.boundary.inv with
    copy_dist := fun hp : e.terminal = .copy => absurd (hp ▸ e.failed_terminal) (by decide)
    not_trailer := fun hp : e.terminal = .trailer => absurd (hp ▸ e.failed_terminal) (by decide)
    streamErr_iff := ⟨fun _ => e.failed_terminal, fun _ (h0 : e = .none) => by subst h0; cases he⟩
    streamErr_class := fun _ => ⟨rfl, he⟩ }
  history := hl.boundary.history

/-- A covered match starts a copy (44_inflate.md R231). -/
theorem Engine.InLoop.startCopy (hl : c.InLoop h n) {len dist : Nat} (hlen : len ≤ 258) (hcov : c.covered dist = true) :
    ({ c with lzRem := BitVec.ofNat 9 len, lzDist := BitVec.ofNat 16 dist, pstate := .copy } : Engine).InLoop h n where
  boundary := by
    obtain ⟨h1, hmax⟩ := Engine.covered_bounds hcov
    have hdist : (BitVec.ofNat 16 dist).toNat = dist :=
      (BitVec.toNat_ofNat _ _).trans (Nat.mod_eq_of_lt (hmax.trans_lt (by decide)))
    exact ⟨{ hl.boundary.inv with
      lzRem_le := (Nat.mod_le _ _).trans hlen
      copy_dist := fun _ => hdist.symm ▸ ⟨h1, hmax, hcov⟩
      not_trailer := nofun
      streamErr_iff := by simp [Engine.settled, PState.settled, hl.streamErr_eq, PState.failed]
      streamErr_class := nofun }, hl.boundary.history⟩
  alive := rfl
  room := hl.room
  trailer := nofun

/-- One byte of a copy less to go (44_inflate.md R232). -/
theorem Engine.InLoop.copied (hl : c.InLoop h n) (hrem : c.lzRem ≠ 0) :
    ({ c with lzRem := c.lzRem - 1 } : Engine).InLoop h n :=
  { hl with
    boundary := ⟨{ hl.boundary.inv with
      lzRem_le := by
        have hle : c.lzRem.toNat ≤ 258 := hl.boundary.inv.lzRem_le
        show (c.lzRem - 1).toNat ≤ 258
        bv_omega }, hl.boundary.history⟩ }

theorem Cmd.Quiet.inLoop_bind {α β : Type} {x : Cmd α} {f : α → Cmd β} {Q : β → Engine → Prop} (hx : x.Quiet)
    (hl : c.InLoop h n) (hf : ∀ a c', c.Quiet c' → c'.InLoop h n → (f a).wp Q (Engine.LoopRaised h n) c') :
    (x >>= f).wp Q (Engine.LoopRaised h n) c :=
  hx.wp_bind (fun _ _ he hq => ⟨he, hl.quiet hq⟩) fun a c' hq => hf a c' hq (hl.quiet hq)
end

/-! ### The actions of the sequencer keep the loop's invariant: 44_inflate.md R226 to R234 -/

/-- After an action that emitted `k` bytes out of `n`. -/
def Engine.StepDone (h : Prop) (n k : Nat) (c : Engine) : Prop := ∃ m, k + m = n ∧ c.InLoop h m

section
variable {h : Prop} {n : Nat} {c : Engine}

theorem Engine.InLoop.stepDone (hl : c.InLoop h n) : c.StepDone h n 0 := ⟨n, Nat.zero_add n, hl⟩

/-- An action that emits nothing: `x`, then the count 0. -/
theorem Cmd.wp.emitsNothing {α : Type} {x : Cmd α}
    (hx : x.wp (fun _ c' => c'.InLoop h n) (Engine.LoopRaised h n) c) :
    (x >>= fun _ => pure 0).wp (Engine.StepDone h n) (Engine.LoopRaised h n) c :=
  Cmd.wp_bind (hx.mono (fun _ _ hl => Cmd.wp_pure hl.stepDone) fun _ _ => id)

theorem storedHeader_wp (hl : c.InLoop h n) :
    storedHeader.wp (fun _ c' => c'.InLoop h n) (Engine.LoopRaised h n) c := by
  unfold storedHeader
  refine quiet_alignBits.inLoop_bind hl fun _ c₁ _ hl => ?_
  refine (quiet_getBits 16).inLoop_bind hl fun len c₂ _ hl => ?_
  refine (quiet_getBits 16).inLoop_bind hl fun nlen c₃ _ hl => ?_
  refine (quiet_require rfl).inLoop_bind hl fun _ c₄ _ hl => ?_
  exact Cmd.wp_modify ((hl.goTo (p := .stored) rfl nofun nofun).quiet {})

theorem readHeader_wp (hl : c.InLoop h n) :
    readHeader.wp (fun _ c' => c'.InLoop h n) (Engine.LoopRaised h n) c := by
  unfold readHeader
  refine (quiet_getBits 1).inLoop_bind hl fun f c₁ _ hl => ?_
  refine (quiet_modify fun _ => {}).inLoop_bind hl fun _ c₂ _ hl => ?_
  refine (quiet_getBits 2).inLoop_bind hl fun t c₃ _ hl => ?_
  refine (quiet_modify fun _ => {}).inLoop_bind hl fun _ c₄ _ hl => ?_
  split
  · exact storedHeader_wp hl
  · exact quiet_loadFixed.inLoop_bind hl fun _ c₅ _ hl => Cmd.wp_modify (hl.goTo rfl nofun nofun)
  · exact quiet_dynamicHeader.inLoop_bind hl fun _ c₅ _ hl => Cmd.wp_modify (hl.goTo rfl nofun nofun)
  · exact Cmd.wp_raise ⟨rfl, hl⟩

/-- The end of a block leads to `TRAILER` only where the block was read with budget left. -/
theorem endOfBlock_wp (hl : c.InLoop h (n + 1)) {E : Err → Engine → Prop} :
    endOfBlock.wp (fun _ c' => c'.InLoop h (n + 1)) E c := by
  have hmove {p : PState} (halive : p.failed = false) (hcopy : p ≠ .copy) :=
    hl.goTo halive hcopy fun _ => Nat.le_add_left 1 n
  refine Cmd.wp_modify ?_
  split
  · split
    · exact hmove rfl nofun
    · exact hmove rfl nofun
  · exact hmove rfl nofun

theorem storedStep_wp (hl : c.InLoop h (n + 1)) (hp : c.pstate = .stored) :
    storedStep.wp (Engine.StepDone h (n + 1)) (Engine.LoopRaised h (n + 1)) c := by
  refine Cmd.wp_get_bind (Cmd.wp_ite (fun _ => ?_) fun _ => ?_)
  · exact .emitsNothing (endOfBlock_wp hl)
  · refine (quiet_getBits 8).inLoop_bind hl fun b c₁ hq hl => ?_
    have hne : c₁.pstate ≠ .trailer := by rw [hq.pstate, hp]; decide
    exact Cmd.wp_bind (emit_wp (Cmd.wp_bind (Cmd.wp_modify (Cmd.wp_pure
      ⟨n, Nat.add_comm 1 n, (hl.emitted hne _).quiet {}⟩))))

/-- No length symbol reaches past 258 (44_inflate.md R229). -/
theorem lenBase_add_lenExtra_le : ∀ i < 29, lenBase.getD i 0 + 2 ^ lenExtra.getD i 0 ≤ 259 := by decide

theorem matchStep_wp (hl : c.InLoop h n) {i : Nat} (hi : i < 29) :
    (matchStep i).wp (fun _ c' => c'.InLoop h n) (Engine.LoopRaised h n) c := by
  unfold matchStep
  refine Cmd.wp_bind ((getBits_wp _ c).mono (fun le c₁ hle => ?_) fun _ _ hr => ⟨hr.1, hl.quiet hr.2⟩)
  obtain ⟨hle, hq⟩ := hle
  replace hl := hl.quiet hq
  refine (quiet_decodeSymbol .dt).inLoop_bind hl fun ds c₂ _ hl => ?_
  refine (quiet_require rfl).inLoop_bind hl fun _ c₃ _ hl => ?_
  refine (quiet_getBits _).inLoop_bind hl fun de c₄ _ hl => ?_
  refine Cmd.wp_get_bind (Cmd.wp_bind (wp_require (fun hcov => Cmd.wp_modify ?_) fun _ => ⟨rfl, hl⟩))
  refine hl.startCopy ?_ hcov
  have := lenBase_add_lenExtra_le i hi
  omega

theorem huffStep_wp (hl : c.InLoop h (n + 1)) (hp : c.pstate = .huff) :
    huffStep.wp (Engine.StepDone h (n + 1)) (Engine.LoopRaised h (n + 1)) c := by
  unfold huffStep
  refine (quiet_decodeSymbol .lt).inLoop_bind hl fun sym c₁ hq hl => ?_
  have hne : c₁.pstate ≠ .trailer := by rw [hq.pstate, hp]; decide
  refine Cmd.wp_ite (fun _ => ?_) fun _ => Cmd.wp_ite (fun _ => ?_) fun _ => Cmd.wp_ite (fun hle => ?_) fun _ => ?_
  · exact Cmd.wp_bind (emit_wp (Cmd.wp_pure ⟨n, Nat.add_comm 1 n, hl.emitted hne _⟩))
  · exact .emitsNothing (endOfBlock_wp hl)
  · exact .emitsNothing (matchStep_wp hl (by omega))
  · exact Cmd.wp_raise ⟨rfl, hl⟩

theorem copyStep_wp (hl : c.InLoop h (n + 1)) (hp : c.pstate = .copy) :
    copyStep.wp (Engine.StepDone h (n + 1)) (Engine.LoopRaised h (n + 1)) c := by
  refine Cmd.wp_get_bind (Cmd.wp_ite (fun _ => ?_) fun hrem => ?_)
  · exact .emitsNothing (Cmd.wp_modify (hl.goTo rfl nofun nofun))
  · refine (quiet_histRead _).inLoop_bind hl fun b c₁ hq hl => ?_
    have hne : c₁.pstate ≠ .trailer := by rw [hq.pstate, hp]; decide
    rw [← hq.lzRem] at hrem
    exact Cmd.wp_bind (emit_wp (Cmd.wp_bind (Cmd.wp_modify (Cmd.wp_pure
      ⟨n, Nat.add_comm 1 n, (hl.emitted hne b).copied hrem⟩))))

theorem quiet_getBytes4 : getBytes4.Quiet :=
  (quiet_getBits 8).bind fun _ => (quiet_getBits 8).bind fun _ => (quiet_getBits 8).bind fun _ =>
    (quiet_getBits 8).bind fun _ => quiet_pure _

theorem readTrailer_wp (hl : c.InLoop h n) :
    readTrailer.wp (fun _ c' => c'.InLoop h n) (Engine.LoopRaised h n) c := by
  unfold readTrailer
  refine quiet_alignBits.inLoop_bind hl fun _ c₁ _ hl => Cmd.wp_get_bind ?_
  have hdone (c' : Engine) (hl : c'.InLoop h n) :
      (setPState .done).wp (fun _ c' => c'.InLoop h n) (Engine.LoopRaised h n) c' :=
    Cmd.wp_modify (hl.goTo rfl nofun nofun)
  refine Cmd.wp_ite (fun _ => ?_) fun _ => ?_
  · refine quiet_getBytes4.inLoop_bind hl fun (b0, b1, b2, b3) c₂ _ hl => Cmd.wp_get_bind ?_
    exact (quiet_require rfl).inLoop_bind hl fun _ c₃ _ hl => hdone c₃ hl
  · refine quiet_getBytes4.inLoop_bind hl fun (b0, b1, b2, b3) c₂ _ hl => ?_
    refine quiet_getBytes4.inLoop_bind hl fun _ c₃ _ hl => Cmd.wp_get_bind ?_
    exact (quiet_require rfl).inLoop_bind hl fun _ c₄ _ hl => hdone c₄ hl

theorem stepOnce_wp (hl : c.InLoop h (n + 1)) :
    stepOnce.wp (Engine.StepDone h (n + 1)) (Engine.LoopRaised h (n + 1)) c := by
  refine Cmd.wp_get_bind ?_
  cases hp : c.pstate with
  | hdr => exact .emitsNothing (readHeader_wp hl)
  | stored => exact storedStep_wp hl hp
  | huff => exact huffStep_wp hl hp
  | copy => exact copyStep_wp hl hp
  | trailer => exact .emitsNothing (readTrailer_wp hl)
  | idle | done | dataError | checksumError | sourceExhausted => exact Cmd.wp_pure hl.stepDone

/-- Where the loop of `STEP` ends there is a boundary: it does not end in `TRAILER`, for there budget is left. -/
theorem stepLoop_wp {ecap passes produced : Nat} (hn : produced + n = ecap) (hl : c.InLoop h n) :
    (stepLoop ecap passes produced).wp (fun _ c' => c'.Boundary h) (fun _ c' => c'.Boundary h) c := by
  induction passes generalizing produced n c with
  | zero => exact Cmd.wp_throw nofun
  | succ k ih =>
    have hrun := stepLoop_succ_run ecap k produced c
    by_cases hend : c.pstate = .done ∨ produced = ecap
    · rw [if_pos hend] at hrun
      refine (Cmd.wp_of_ok hrun).mpr (hl.exit fun ht => ?_)
      rcases hend with hdone | hall
      · rw [hdone] at ht
        cases ht
      · have := hl.trailer ht
        omega
    · rw [if_neg hend] at hrun
      obtain ⟨m, rfl⟩ : ∃ m, n = m + 1 := ⟨n - 1, by omega⟩
      have hstep := stepOnce_wp hl
      cases hs : stepOnce.run c with
      | ok j c' =>
        obtain ⟨m', hm, hl'⟩ := hstep.ok j c' hs
        rw [hs] at hrun
        exact (ih (by omega) hl').congr hrun
      | error stop c' =>
        rw [hs] at hrun
        cases stop with
        | raise e =>
          obtain ⟨he, hl'⟩ := hstep.raise e c' hs
          exact (Cmd.wp_of_ok hrun).mpr (hl'.fail he _)
        | wait | fault | refuse => exact Cmd.wp_of_stop hrun nofun
end

/-! ### Every command leads from a boundary to a boundary -/

/-- The body of a command that ends in a boundary state, whether it returns or raises. -/
structure Cmd.KeepsBoundary {α : Type} (x : Cmd α) : Prop where
  wp : ∀ (h : Prop) (c : Engine), c.Boundary h → x.wp (fun _ c' => c'.Boundary h) (fun _ c' => c'.Boundary h) c

theorem Cmd.Quiet.keepsBoundary {α : Type} {x : Cmd α} (hx : x.Quiet) : x.KeepsBoundary :=
  ⟨fun _ c hc => (hx.wp c).mono (fun _ _ hq => hc.quiet hq) fun _ _ hq => hc.quiet hq.2⟩

/-- Without a stream the command ends at once (60_exceptions.md R270, code 14). -/
theorem Cmd.KeepsBoundary.requireStream {α : Type} {x : Cmd α} (hx : x.KeepsBoundary) :
    (requireStream >>= fun _ => x).KeepsBoundary :=
  ⟨fun h c hc => Cmd.wp_bind (wp_requireStream (fun _ => hx.wp h c hc) fun _ => hc)⟩

/-- `INIT` begins with no byte emitted, so both stores cover nothing (44_inflate.md R222). -/
theorem Engine.Boundary.startStream {h : Prop} {c : Engine} (hc : c.Boundary h) : c.startStream.Boundary h where
  inv := { hc.inv with
    bitcnt_le := by simp
    bitacc_lt := by simp
    ringCap_le := hc.inv.ringCapReg_le
    ringFill_le := by simp
    ringIdx_lt := fun hcap => by
      have : c.ringCapReg ≠ 0 := hcap
      show 0 < c.ringCapReg.toNat
      bv_omega
    ring_off := fun _ => ⟨rfl, rfl⟩
    lzRem_le := by simp
    copy_dist := nofun
    not_trailer := nofun
    streamErr_iff := by simp [PState.failed]
    streamErr_class := nofun
    dstPos_le := by simp
    dst_off := fun _ => rfl
    outSat_le := by simp
    outSat_dst := by simp
    srcPos_le := by simp }
  history := fun _ _ d h1 h2 => by
    simp at h2
    omega

/-- `PRELOAD` comes before the first emitted byte, so the resident destination covers nothing (43_window.md R203). -/
theorem Engine.Boundary.preloaded {h : Prop} {c : Engine} (hc : c.Boundary h) (hcap : c.latch.ringCap ≠ 0)
    (hsat : c.outSat = 0) (b : Byte) : (c.ringWritten b).Boundary h where
  inv := hc.inv.ringWritten hcap b
  history := fun _ (hres : c.latch.ctrl.dstRes = true) d h1 (h2 : d ≤ c.dstPos.toNat) => by
    have hmin := hc.inv.outSat_dst hres
    have hzero : c.outSat.toNat = 0 := by simp [hsat]
    have hmax : 0 < Config.windowMax := by decide
    omega

theorem Engine.Boundary.inLoop {h : Prop} {c : Engine} {n : Nat} (hc : c.Boundary h) (halive : c.pstate.failed = false)
    (hroom : c.HasRoom n) : c.InLoop h n where
  boundary := (Engine.settled_of_ne hc.inv.not_trailer).symm ▸ hc
  alive := halive
  room := hroom
  trailer ht := absurd ht hc.inv.not_trailer

theorem copyLoop_wp {h : Prop} {c : Engine} (d n : Nat) (hc : c.Boundary h) (hroom : c.HasRoom n) :
    (copyLoop d n).wp (fun _ c' => c'.Boundary h) (fun _ c' => c'.Boundary h) c := by
  induction n generalizing c with
  | zero => exact Cmd.wp_pure hc
  | succ n ih =>
    refine (quiet_histRead d).wp_bind (fun _ _ _ hq => hc.quiet hq) fun b c₁ hq => ?_
    have hroom₁ := hroom.quiet hq
    exact Cmd.wp_bind (emit_wp (ih ((hc.quiet hq).emitted hroom₁ b) (hroom₁.emitted b)))

/-- A command whose body keeps boundaries completes in one. -/
theorem runCmd_boundary {i : Instr} {s t : State} {h : Prop} {body : Cmd (Option Word)} (hb : body.KeepsBoundary)
    (hs : s.toEngine.Boundary h) (ht : runCmd i body s = .next t) (hbusy : t.busy = false) : t.toEngine.Boundary h := by
  have hstart : ({ s.toEngine with err := .none } : Engine).Boundary h := hs.quiet {}
  have hw := hb.wp h _ hstart
  by_cases hwf : i.wf = true
  · rcases runCmd_cases i body s hwf with ⟨r, c, hr, he⟩ | ⟨e, c, hr, he⟩ | ⟨w, c, hr, he⟩ | ⟨f, c, hr, he⟩ |
      ⟨f, c, hr, he⟩ <;> rw [he] at ht <;> cases ht
    · exact (hw.ok r c hr).quiet {}
    · exact (hw.raise e c hr).quiet {}
    · cases hbusy
  · rw [runCmd_illegal i body s (by simpa using hwf)] at ht
    cases ht
    exact hstart.quiet {}

theorem quiet_ckUpdate (b : Byte) : (ckUpdate b).Quiet := quiet_modify fun _ => {}

theorem quiet_reportResult : reportResult.Quiet := quiet_get.bind fun _ => quiet_pure _

/-- Every command runs a body that leads from a boundary to a boundary. -/
theorem exec_keepsBoundary (i : Instr) :
    ∃ body : Cmd (Option Word), (∀ s, exec i s = runCmd i body s) ∧ body.KeepsBoundary := by
  cases i with
  | nop => exact ⟨_, fun _ => rfl, (quiet_pure _).keepsBoundary⟩
  | init =>
    refine ⟨_, fun _ => rfl, ⟨fun h c hc => Cmd.wp_get_bind (Cmd.wp_ite (fun _ => Cmd.wp_throw nofun) fun _ => ?_)⟩⟩
    exact Cmd.wp_bind (Cmd.wp_set (Cmd.wp_pure hc.startStream))
  | step cap =>
    refine ⟨_, fun _ => rfl, .requireStream ⟨fun h c hc => Cmd.wp_get_bind ?_⟩⟩
    have hloop (halive : c.pstate.failed = false) :=
      stepLoop_wp (passes := c.stepBound (c.budget cap)) (Nat.zero_add _) (hc.inLoop halive (hc.inv.hasRoom_budget cap))
    cases hp : c.pstate with
    | done => exact Cmd.wp_pure hc
    | dataError | checksumError | sourceExhausted => exact Cmd.wp_raise hc
    | idle | hdr | stored | huff | copy | trailer => exact hloop (by rw [hp]; rfl)
  | getbits n => exact ⟨_, fun _ => rfl, .requireStream ((quiet_getBits _).map _).keepsBoundary⟩
  | getbyte => exact ⟨_, fun _ => rfl, .requireStream ((quiet_getBits 8).map _).keepsBoundary⟩
  | align => exact ⟨_, fun _ => rfl, .requireStream (quiet_alignBits.bind fun _ => quiet_pure _).keepsBoundary⟩
  | ckinit kind =>
    refine ⟨_, fun s => (rfl : execCkinit kind s = _), ?_⟩
    exact Cmd.Quiet.keepsBoundary (.bind (quiet_modify fun _ => {}) fun _ => quiet_reportResult)
  | ckset kind =>
    refine ⟨_, fun s => (rfl : execCkset kind s = _), ?_⟩
    exact Cmd.Quiet.keepsBoundary (.bind (quiet_modify fun _ => {}) fun _ => quiet_reportResult)
  | ckbyte b => exact ⟨_, fun _ => rfl, ((quiet_ckUpdate b).bind fun _ => quiet_reportResult).keepsBoundary⟩
  | lenw idx len => exact ⟨_, fun _ => rfl, ((quiet_lenWrite _ _).bind fun _ => quiet_pure _).keepsBoundary⟩
  | lenr idx => exact ⟨_, fun _ => rfl, ((quiet_lenRead _).bind fun _ => quiet_pure _).keepsBoundary⟩
  | build slot base num =>
    exact ⟨_, fun _ => rfl, ((quiet_readLens _ _).bind fun _ => (quiet_buildTree _ _).bind fun _ =>
      quiet_pure _).keepsBoundary⟩
  | fixed =>
    exact ⟨loadFixed >>= fun _ => pure (some 0), fun _ => rfl, (quiet_loadFixed.bind fun _ => quiet_pure _).keepsBoundary⟩
  | decode slot =>
    exact ⟨_, fun _ => rfl, .requireStream ((quiet_decodeSymbol _).bind fun _ => quiet_pure _).keepsBoundary⟩
  | put b =>
    refine ⟨_, fun _ => rfl, .requireStream ⟨fun h c hc => Cmd.wp_get_bind (Cmd.wp_bind
      (wp_require (fun hok => Cmd.wp_bind (emit_wp (Cmd.wp_pure (hc.emitted (n := 0) ?_ b)))) fun _ => hc))⟩⟩
    intro hres
    have hne : c.dstPos ≠ c.latch.dstLen := by simpa [hres] using hok
    have hle := hc.inv.dstPos_le hres
    bv_omega
  | get dist =>
    refine ⟨_, fun _ => rfl, .requireStream ⟨fun h c hc => Cmd.wp_get_bind (Cmd.wp_bind
      (wp_require (fun hok => ?_) fun _ => hc))⟩⟩
    exact ((quiet_histRead _).bind fun _ => quiet_pure _).keepsBoundary.wp h c hc
  | copy len dist =>
    refine ⟨_, fun _ => rfl, .requireStream ⟨fun h c hc => Cmd.wp_get_bind (Cmd.wp_bind
      (wp_require (fun _ => Cmd.wp_bind (wp_require (fun hok => ?_) fun _ => hc)) fun _ => hc))⟩⟩
    refine Cmd.wp_bind ((copyLoop_wp _ _ hc (hc.inv.hasRoom fun hres => ?_)).mono (fun _ _ hc' => Cmd.wp_pure hc') fun _ _ => id)
    simpa [hres] using hok
  | preload b =>
    refine ⟨_, fun _ => rfl, .requireStream ⟨fun h c hc => Cmd.wp_get_bind (Cmd.wp_bind
      (wp_require (fun hok => ?_) fun _ => hc))⟩⟩
    simp only [Bool.and_eq_true, decide_eq_true_eq] at hok
    obtain ⟨⟨hcap, _⟩, hsat⟩ := hok
    exact Cmd.wp_bind (Cmd.wp_modify (Cmd.wp_pure (hc.preloaded hcap hsat b)))

theorem exec_boundary {i : Instr} {s t : State} {h : Prop} (hs : s.toEngine.Boundary h) (ht : exec i s = .next t)
    (hbusy : t.busy = false) : t.toEngine.Boundary h := by
  obtain ⟨body, hrun, hkeeps⟩ := exec_keepsBoundary i
  exact runCmd_boundary hkeeps hs (hrun s ▸ ht) hbusy

/-! ### What the host does keeps the machine's invariant -/

theorem Engine.Inv.hwReset (c : Engine) : c.hwReset.Inv := by
  constructor <;> simp [Engine.reset, Latch.zero, Ctrl.zero, PState.failed]

/-- A host write to an RW register changes nothing of a running stream, and `RING_CAP` is cut to its maximum (10_state.md R23). -/
theorem Engine.Inv.regWrite {c : Engine} (hi : c.Inv) (off : Nat) (v : Word) : (c.regWrite off v).Inv := by
  unfold Engine.regWrite
  split
  case h_2 =>
    have hle : min v.toNat Config.ringMax ≤ Config.ringMax := Nat.min_le_right _ _
    exact { hi with ringCapReg_le := (Nat.mod_le _ _).trans hle }
  all_goals exact { hi with }

/-- A byte of system memory is no part of the invariant. -/
theorem Engine.Inv.hostStore {c : Engine} (hi : c.Inv) (a : Addr) (b : Byte) : (c.hostStore a b).Inv := by
  unfold Engine.hostStore
  split
  · exact { hi with }
  · exact hi

/-- A command from a boundary state leaves the machine at a boundary, or waiting with a boundary state as its acceptance. -/
theorem State.Inv.of_exec {i : Instr} {s t : State} (hi : s.toEngine.Inv) (ht : exec i s = .next t) : t.Inv := by
  obtain ⟨body, hrun⟩ := exec_runCmd i
  have hstart : ({ s.toEngine with err := .none } : Engine).Inv := { hi with }
  have hboundary (hbusy : t.busy = false) : t.toEngine.Inv :=
    (exec_boundary (h := False) ⟨hi, False.elim⟩ ht hbusy).inv
  rcases runCmd_running (hrun s ▸ ht) with ⟨hr, hb⟩ | ⟨w, hr, hb⟩
  · exact ⟨by simp [hr, hb], hboundary, by simp [hr]⟩
  · refine ⟨by simp [hr, hb], hboundary, fun r h => ?_⟩
    rw [hr] at h
    cases h
    exact hstart

/-- One part of the host's side keeps the machine's invariant. -/
def KeepsInv (f : State → Host.Outcome State Fault Refusal) : Prop := ∀ s t : State, s.Inv → f s = .next t → t.Inv

theorem keepsInv_deliver {f : Engine → Engine} (hf : ∀ c : Engine, c.Inv → (f c).Inv) : KeepsInv (deliver f) := by
  intro s t hi ht
  cases hr : s.running with
  | none =>
    rw [deliver_idle f s hr] at ht
    cases ht
    exact { hi with boundary := fun hb => hf _ (hi.boundary hb) }
  | some r =>
    rw [deliver_running f s r hr] at ht
    exact .of_exec (hf _ (hi.accepted r hr)) ht

theorem keepsInv_hwReset : KeepsInv fun s => .next s.hwReset := by
  rintro s _ - ⟨⟩
  exact ⟨by simp, fun _ => Engine.Inv.hwReset s.toEngine, by simp⟩

theorem keepsInv_cmdWrite (w : Word) : KeepsInv (cmdWrite w) := by
  intro s t hi ht
  unfold cmdWrite at ht
  split at ht
  · cases ht
    exact { hi with }
  · have hc : s.toEngine.Inv := hi.boundary (by simpa using ‹¬s.busy = true›)
    split at ht
    · exact .of_exec (s := s.accept) { hc with } ht
    · cases ht
      have hc' : (s.accept.toEngine.takeError .illegalCmd).Inv := { hc with }
      exact ⟨by simp, fun _ => hc', by simp⟩

theorem keepsInv_busWrite (a : Addr) (lanes : List Byte) : KeepsInv (busWrite a lanes) := by
  intro s t hi ht
  unfold busWrite at ht
  split at ht
  · cases ht
    exact hi
  · split at ht
    · exact keepsInv_cmdWrite _ s t hi ht
    · split at ht <;> cases ht
      · exact hi
      · exact { hi with boundary := fun hb => (hi.boundary hb).regWrite _ _ }

theorem keepsInv_hostMemWrite (a : Addr) (b : Byte) : KeepsInv (hostMemWrite a b) := by
  intro s t hi ht
  unfold hostMemWrite at ht
  split at ht
  · cases ht
  · exact keepsInv_deliver (f := fun c => c.hostStore a b) (fun _ hc => hc.hostStore a b) s t hi ht

theorem keepsInv_offerPull (p : PullAnswer) : KeepsInv (deliver fun c => c.offerPull p) :=
  keepsInv_deliver (f := fun c => c.offerPull p) fun c hc => (Engine.Quiet.inv {} hc : (c.offerPull p).Inv)

theorem keepsInv_offerPush : KeepsInv (deliver fun c => c.offerPush) :=
  keepsInv_deliver (f := fun c => c.offerPush) fun c hc => (Engine.Quiet.inv {} hc : c.offerPush.Inv)

theorem keepsInv_offerReadDest (b : Byte) : KeepsInv (deliver fun c => c.offerReadDest b) :=
  keepsInv_deliver (f := fun c => c.offerReadDest b) fun c hc => (Engine.Quiet.inv {} hc : (c.offerReadDest b).Inv)

theorem keepsInv_besideProgram {act : HostAction} {f : State → Host.Outcome State Fault Refusal}
    (h : act.besideProgram = some f) : KeepsInv f := by
  cases act <;> cases h
  case reset => exact keepsInv_hwReset
  case pullAnswer p => exact keepsInv_offerPull p
  case pushAccept => exact keepsInv_offerPush
  case readDestAnswer b => exact keepsInv_offerReadDest b

theorem keepsInv_firstBesideProgram {acts rest : List HostAction} {f : State → Host.Outcome State Fault Refusal}
    (h : firstBesideProgram acts = some (f, rest)) : KeepsInv f := by
  induction acts generalizing rest with
  | nil => cases h
  | cons act acts ih =>
    unfold firstBesideProgram at h
    split at h
    · cases h
      exact keepsInv_besideProgram ‹_›
    · obtain ⟨⟨g, before⟩, hp, he⟩ := Option.map_eq_some_iff.mp h
      cases he
      exact ih hp

/-- The host's list of actions is no part of the invariant. -/
theorem State.Inv.withHostq {s : State} (hi : s.Inv) (q : List HostAction) : ({ s with hostq := q } : State).Inv := { hi with }

theorem keepsInv_hostWait : KeepsInv hostWait := by
  intro s t hi ht
  unfold hostWait at ht
  split at ht
  · split at ht
    · exact keepsInv_firstBesideProgram ‹_› _ t (hi.withHostq _) ht
    · cases ht
      exact hi.withHostq _
  · cases ht
    exact hi

theorem keepsInv_hostAct (act : HostAction) : KeepsInv (hostAct act) := by
  cases act with
  | write a lanes => exact keepsInv_busWrite a lanes
  | read a n =>
    rintro s _ hi ⟨⟩
    exact { hi with }
  | reset => exact keepsInv_hwReset
  | memWrite a b => exact keepsInv_hostMemWrite a b
  | pullAnswer p => exact keepsInv_offerPull p
  | pushAccept => exact keepsInv_offerPush
  | readDestAnswer b => exact keepsInv_offerReadDest b
  | wait => exact keepsInv_hostWait

/-! ### The fields of `STATUS`: 10_state.md R28 -/

/-- `STATUS` with its width left as the sum of its fields' widths, as the library's lemmas about concatenations need it. -/
theorem State.statusWord_eq_cast (s : State) :
    s.statusWord = BitVec.cast (show 5 + 4 + 2 + 5 + 1 + 1 + 1 + 2 + 1 + 4 + 4 + 1 + 1 = 32 from rfl)
      (0#5 ++ s.streamErr.code ++ s.ckKind.code ++ s.bitcnt ++ bit s.ct.valid ++ bit s.dt.valid ++ bit s.lt.valid
        ++ s.btype ++ bit s.bfinal ++ s.err.code ++ s.pstate.code ++ bit s.drop ++ bit s.busy) := rfl

theorem getLsbD_bit (b : Bool) : (bit b).getLsbD 0 = b := by simp [bit]

/-! ### The statements -/

/-- Settles O54: every host action keeps the invariant, for a command leads from a boundary to a boundary, and a waiting one is
resumed from the boundary it was accepted in. -/
theorem stepKeepsTheBoundaryInvariant : Obligations.StepKeepsTheBoundaryInvariant := by
  intro s t hi ht
  cases hq : s.hostq with
  | nil =>
    rw [step_quiet s hq] at ht
    cases ht
    exact hi
  | cons act rest =>
    rw [step_act s act rest hq] at ht
    exact keepsInv_hostAct act _ t (hi.withHostq rest) ht

/-- Settles O57: an emitted byte enters both stores at distance 1 and moves what they hold one place further, and no other
step of a command touches them. -/
theorem commandsKeepHistoryAgreement : Obligations.CommandsKeepHistoryAgreement := by
  intro i s t hi ha ht hbusy
  exact (exec_boundary (h := True) ⟨hi, fun _ => ha⟩ ht hbusy).history trivial

/-- Settles O10: each field is taken out of the concatenation that `STATUS` is (10_state.md R28). -/
theorem statusShowsItsFields : Obligations.StatusShowsItsFields := by
  refine ⟨fun s => ⟨rfl, ?_⟩, fun p => by cases p <;> rfl, fun e => by cases e <;> rfl, fun k => by cases k <;> rfl⟩
  rw [s.statusWord_eq_cast]
  simp only [BitVec.getLsbD_cast, BitVec.extractLsb'_cast]
  and_intros
  all_goals simp (disch := simp only [Nat.reduceLeDiff]) only [BitVec.getLsbD_append, getLsbD_bit,
    BitVec.extractLsb'_append_eq_of_le, BitVec.extractLsb'_append_eq_of_add_le, BitVec.extractLsb'_eq_self,
    Nat.reduceSub, Nat.reduceLT, if_true, if_false, BitVec.ofNat_eq_ofNat]

end Sys2Proof.Machine
end

section
/-! SUPPORT. The access rules of the register window (20_memory.md R61): what an offset no register answers at reads and stores,
what a host access does in each case, and the fields of the packed read-only registers. At the end the settled statement. -/

namespace Sys2Proof.Machine

/-! ### Registers by offset: 20_memory.md R61 -/

/-- No RW register stands at a misaligned offset, at `ID` or from `CMD` on. -/
theorem Engine.regWrite_of_not_rw (c : Engine) {off : Nat} (v : Word) (h : off % 4 ≠ 0 ∨ off = 0 ∨ 0x20 ≤ off) :
    c.regWrite off v = c := by
  unfold Engine.regWrite
  split
  case h_8 => rfl
  all_goals omega

theorem State.regRead_of_unmapped (s : State) {off : Nat} (h : off % 4 ≠ 0 ∨ 0x5C ≤ off) : s.regRead off = 0 := by
  unfold State.regRead
  split
  case h_23 => rfl
  all_goals omega

/-- A register of the window is found at its offset again, addresses modulo 2^32. -/
theorem Platform.offset_base_add (p : Platform) {off : Nat} (h : off < 2 ^ 32) :
    p.offset (p.mmioBase + BitVec.ofNat 32 off) = off := by
  rw [Platform.offset, BitVec.add_comm, BitVec.add_sub_cancel, BitVec.toNat_ofNat, Nat.mod_eq_of_lt h]

/-! ### Host accesses -/

@[simp] theorem length_lanesOf (w : Word) : (lanesOf w).length = 4 := rfl

theorem wordOfLanes_of_length_ne {lanes : List Byte} (h : lanes.length ≠ 4) : wordOfLanes lanes = none := by
  unfold wordOfLanes
  split
  · exact absurd rfl h
  · rfl

/-- A write of another width, at a misaligned offset or to no RW register and not to `CMD` is ignored, whether `BUSY` or not. -/
theorem busWrite_ignored {s : State} {a : Addr} {lanes : List Byte}
    (h : lanes.length ≠ 4 ∨ s.platform.offset a % 4 ≠ 0 ∨ s.platform.offset a = 0 ∨ 0x24 ≤ s.platform.offset a) :
    busWrite a lanes s = .next s := by
  have hcmd : cmdOffset = 0x20 := rfl
  unfold busWrite
  split
  case h_1 => rfl
  case h_2 v hv =>
    have hoff : s.platform.offset a % 4 ≠ 0 ∨ s.platform.offset a = 0 ∨ 0x24 ≤ s.platform.offset a :=
      h.resolve_left fun hlen => by simp [wordOfLanes_of_length_ne hlen] at hv
    rw [if_neg (by omega), Engine.regWrite_of_not_rw _ _ (by omega), ite_self]

/-- An aligned 32-bit write at an offset of the window: a command to `CMD`, or the register's new value unless `BUSY`. -/
theorem step_wrReg {s : State} {off : Nat} {v : Word} {rest : List HostAction}
    (hq : s.hostq = wrReg s.platform.mmioBase off v :: rest) (hoff : off < 2 ^ 32) :
    step s = if off = cmdOffset then cmdWrite v { s with hostq := rest }
      else if s.busy then .next { s with hostq := rest }
      else .next { s with hostq := rest, toEngine := s.toEngine.regWrite off v } := by
  rw [step_act s _ rest hq]
  simp only [wrReg, hostAct, busWrite, wordOfLanes_lanesOf, Platform.offset_base_add s.platform hoff]

theorem cmdWrite_busy {s : State} (w : Word) (h : s.busy = true) : cmdWrite w s = .next { s with drop := true } :=
  if_pos h

theorem State.length_busLanes (s : State) (a : Addr) (n : Nat) : (s.busLanes a n).length = n := by
  unfold State.busLanes
  split
  · rw [length_lanesOf, ‹n = 4›]
  · exact List.length_replicate

theorem State.busLanes_word (s : State) (a : Addr) : s.busLanes a 4 = lanesOf (s.regRead (s.platform.offset a)) :=
  if_pos rfl

theorem State.busLanes_undefined (s : State) {a : Addr} {n : Nat}
    (h : n ≠ 4 ∨ s.platform.offset a % 4 ≠ 0 ∨ 0x5C ≤ s.platform.offset a) : s.busLanes a n = List.replicate n 0 := by
  unfold State.busLanes
  split
  · rw [s.regRead_of_unmapped (h.resolve_left (not_not_intro ‹n = 4›)), ‹n = 4›]
    rfl
  · rfl

theorem step_read {s : State} {a : Addr} {n : Nat} {rest : List HostAction} (hq : s.hostq = .read a n :: rest) :
    step s = .next { s with hostq := rest, busReads := s.busReads ++ [s.busLanes a n] } := by
  rw [step_act s _ rest hq]
  rfl

/-! ### The packed registers: 10_state.md R22, R38 and section 2 -/

/-- `LZ` with its width left as the sum of its fields' widths. -/
theorem State.regRead_lz_eq_cast (s : State) :
    s.regRead 0x48 = BitVec.cast (show 7 + 9 + 16 = 32 from rfl) (0#7 ++ s.lzRem ++ s.lzDist) := rfl

/-- The layout of `CTRL` and `LCTRL` with its width left as the sum of its fields' widths. -/
theorem Ctrl.toWord_eq_cast (c : Ctrl) :
    c.toWord = BitVec.cast (show 24 + 2 + 1 + 1 + 1 + 1 + 2 = 32 from rfl)
      (0#24 ++ c.trailer.code ++ bit c.srcPull ++ bit c.rdestEn ++ bit c.dstPush ++ bit c.dstRes ++ c.ckKind.code) := rfl

theorem State.regRead_lz_fields (s : State) :
    (s.regRead 0x48).extractLsb' 0 16 = s.lzDist ∧ (s.regRead 0x48).extractLsb' 16 9 = s.lzRem ∧
      (s.regRead 0x48).extractLsb' 25 7 = 0 := by
  rw [s.regRead_lz_eq_cast]
  simp only [BitVec.extractLsb'_cast]
  and_intros
  all_goals simp (disch := simp only [Nat.reduceLeDiff]) only [BitVec.extractLsb'_append_eq_of_le,
    BitVec.extractLsb'_append_eq_of_add_le, BitVec.extractLsb'_eq_self, Nat.reduceSub, BitVec.ofNat_eq_ofNat]

theorem Ctrl.toWord_fields (c : Ctrl) :
    c.toWord.extractLsb' 0 2 = c.ckKind.code ∧ c.toWord.getLsbD 2 = c.dstRes ∧ c.toWord.getLsbD 3 = c.dstPush ∧
      c.toWord.getLsbD 4 = c.rdestEn ∧ c.toWord.getLsbD 5 = c.srcPull ∧ c.toWord.extractLsb' 6 2 = c.trailer.code ∧
      c.toWord.extractLsb' 8 24 = 0 := by
  rw [c.toWord_eq_cast]
  simp only [BitVec.getLsbD_cast, BitVec.extractLsb'_cast]
  and_intros
  all_goals simp (disch := simp only [Nat.reduceLeDiff]) only [BitVec.getLsbD_append, getLsbD_bit,
    BitVec.extractLsb'_append_eq_of_le, BitVec.extractLsb'_append_eq_of_add_le, BitVec.extractLsb'_eq_self,
    Nat.reduceSub, Nat.reduceLT, if_true, if_false, BitVec.ofNat_eq_ofNat]

/-! ### The statement -/

/-- Settles O8: writes by the cases of a write's width, offset and `BUSY`, reads by the lanes they return, the read-only
registers one by one (20_memory.md R61). -/
theorem registerWindowAccessRules : Obligations.RegisterWindowAccessRules := by
  refine ⟨?_, ?_, ?_, ?_, ?_, fun w base off => ⟨rfl, rfl⟩⟩
  case refine_1 =>
    intro s a lanes rest hq _ hbad
    rw [step_act s _ rest hq]
    exact busWrite_ignored hbad
  case refine_2 =>
    intro s off v rest hq hbusy hoff
    rw [step_wrReg hq (by omega), if_neg (show off ≠ cmdOffset from Nat.ne_of_lt hoff), if_pos hbusy]
  case refine_3 =>
    intro s v rest hq hbusy
    rw [step_wrReg hq (by omega), if_pos (show 0x20 = cmdOffset from rfl)]
    exact cmdWrite_busy v hbusy
  case refine_4 =>
    intro s a n rest hq
    refine ⟨s.busLanes a n, step_read hq, s.length_busLanes a n, fun _ hbad => s.busLanes_undefined hbad, ?_⟩
    rintro rfl - -
    exact s.busLanes_word a
  case refine_5 =>
    intro s
    obtain ⟨hdist, hrem, hlz⟩ := s.regRead_lz_fields
    obtain ⟨hkind, hres, hpush, hrdest, hpull, htrailer, hzero⟩ := s.latch.ctrl.toWord_fields
    refine ⟨rfl, rfl, rfl, rfl, ?_, rfl, rfl, rfl, rfl, rfl, BitVec.toNat_setWidth_of_le (by decide), hdist, hrem, hlz,
      BitVec.toNat_setWidth_of_le (by decide), BitVec.toNat_setWidth_of_le (by decide),
      BitVec.toNat_setWidth_of_le (by decide), ?_, hres, hpush, hrdest, hpull, ?_, hzero⟩
    · change s.ckKind.report s.ckState = _
      cases s.ckKind <;> rfl
    · refine (congrArg BitVec.toNat hkind).trans ?_
      cases s.latch.ctrl.ckKind <;> rfl
    · refine (congrArg BitVec.toNat htrailer).trans ?_
      cases s.latch.ctrl.trailer <;> rfl

end Sys2Proof.Machine
end

section
/-! SUPPORT. Words the decoder rejects (30_encoding.md R93, 60_exceptions.md R274): the must-be-zero mask of a word's format, and
the step that meets a rejected word. At the end the settled statement. -/

namespace Sys2Proof

/-! ### Must-be-zero masks: 30_encoding.md R92, R93 -/

/-- Bits `25:k`, the must-be-zero bits of a format with `k` operand bits. -/
def mustBeZeroMask (k : Nat) : Word := (BitVec.allOnes (26 - k)).setWidth 32 <<< k

/-- The must-be-zero mask of an opcode's format; a reserved opcode has none. The row of an opcode is read off at its word with
no operand bit set. -/
def formatMask (opc : BitVec 6) : Option Word := (opcodeRow (opc ++ 0#26)).map fun row => mustBeZeroMask row.1

theorem and_mustBeZeroMask (k : Nat) (w : Word) : w &&& mustBeZeroMask k = (mustBeZeroBits k w).setWidth 32 <<< k := by
  ext i hi
  simp only [mustBeZeroMask, mustBeZeroBits, BitVec.getElem_and, BitVec.getElem_shiftLeft]
  by_cases hki : i < k
  · simp [hki]
  · simp [hki, Nat.add_sub_cancel' (Nat.le_of_not_lt hki), BitVec.getLsbD_eq_getElem hi, Bool.and_comm]

/-- How many operand bits the row of a word has is settled by its opcode. -/
theorem formatMask_opcodeOf (w : Word) : formatMask (opcodeOf w) = (opcodeRow w).map fun row => mustBeZeroMask row.1 := by
  unfold formatMask opcodeRow
  rw [Laws.Opcode.opcodeOf_append]
  split <;> rfl

theorem decode_eq_mustBeZero {w mask : Word} (hmask : formatMask (opcodeOf w) = some mask) (hbit : w &&& mask ≠ 0) :
    decode w = .error .mustBeZero := by
  rw [formatMask_opcodeOf, Option.map_eq_some_iff] at hmask
  obtain ⟨⟨k, i⟩, hrow, rfl⟩ := hmask
  have hne : mustBeZeroBits k w ≠ 0 := fun hzero => hbit (by simp [and_mustBeZeroMask, hzero])
  simp only [decode, hrow, if_neg hne]

namespace Machine

/-! ### A rejected word at `CMD`: 60_exceptions.md R271, R274 -/

theorem cmdWrite_rejected {s : State} {w : Word} {r : Reject} (hbusy : s.busy = false) (hw : decode w = .error r) :
    cmdWrite w s = .next s.accept.illegal := by
  simp [cmdWrite, hbusy, hw]

theorem step_cmdAction {s : State} {w : Word} {rest : List HostAction} (hq : s.hostq = s.cmdAction w :: rest) :
    step s = cmdWrite w { s with hostq := rest } :=
  (step_wrReg (off := cmdOffset) hq (by decide)).trans (if_pos rfl)

/-! ### The statement -/

/-- Settles O5: the 17 listed masks are those of the decoder's rows, so the word is rejected, and the step that meets a rejected
word is acceptance followed by `State.illegal`. -/
theorem mustBeZeroBitIsIllegal : Obligations.MustBeZeroBitIsIllegal := by
  rintro w _ mask hlisted rfl hbit
  have hmask :=
    (List.forall_iff_forall_mem (p := fun row : BitVec 6 × Word => formatMask row.1 = some row.2)).mp (by decide) _ hlisted
  have hw : decode w = .error .mustBeZero := decode_eq_mustBeZero hmask hbit
  exact ⟨hw, fun _ _ hbusy hq => (step_cmdAction hq).trans (cmdWrite_rejected hbusy hw)⟩

end Machine

end Sys2Proof
end

section
/-! SUPPORT. The bit reader against the bits of the source (40_bitreader.md R121 to R123, R126 to R129): a fetch takes the next source
byte, a refill leaves the source bits as they are, and `GetBits` takes them off the front. At the end the settled statements. -/

namespace Sys2Proof.Machine

/-! ### Fetching the next source byte: 40_bitreader.md R121 -/

theorem offeredBytes_eq_cons {q : List PullAnswer} {b : Byte} {bs : List Byte} (h : offeredBytes q = b :: bs) :
    ∃ rest, q = .byte b :: rest ∧ offeredBytes rest = bs := by
  match q, h with
  | .byte x :: rest, h =>
    obtain ⟨rfl, hbs⟩ := List.cons.inj h
    exact ⟨rest, rfl, hbs⟩

theorem residentBytes_eq_cons {p : Platform} {m : Memory} {n : Nat} {a : Addr} {b : Byte} {bs : List Byte}
    (h : residentBytes p m n a = b :: bs) :
    p.backs a = true ∧ m.read a.toNat = some b ∧ ∃ k, n = k + 1 ∧ residentBytes p m k (a + 1) = bs := by
  cases n with
  | zero => cases h
  | succ k =>
    rw [residentBytes] at h
    split at h
    · next hbacks =>
      split at h
      · next x hread =>
        obtain ⟨rfl, hbs⟩ := List.cons.inj h
        exact ⟨hbacks, hread, k, rfl, hbs⟩
      · cases h
    · cases h

/-- The engine after a fetch that the source answers with `b`. -/
def Engine.fetched (c : Engine) (b : Byte) : Engine :=
  { c with
    srcPos := c.srcPos + 1
    ports :=
      if c.latch.ctrl.srcPull then
        { c.ports with pullQ := c.ports.pullQ.tail, log := c.ports.log ++ [.pull (.byte b)] }
      else c.ports }

theorem fetchSourceByte_run_of_sourceBytes {c : Engine} {b : Byte} {bs : List Byte} (h : c.sourceBytes = b :: bs) :
    fetchSourceByte.run c = .ok b (c.fetched b) ∧ (c.fetched b).sourceBytes = bs := by
  rw [Engine.sourceBytes] at h
  rw [fetchSourceByte_run]
  split at h
  · next hpull =>
    split at h
    · cases h
    · next hended =>
      obtain ⟨rest, hq, hrest⟩ := offeredBytes_eq_cons h
      simp [Engine.fetched, Engine.sourceBytes, pullByte_run, hpull, hended, hq, hrest]
  · next hpull =>
    obtain ⟨hbacks, hread, k, hk, hbs⟩ := residentBytes_eq_cons h
    have hne : c.srcPos ≠ c.latch.srcLen := by bv_omega
    have hk' : (c.latch.srcLen - (c.srcPos + 1)).toNat = k := by bv_omega
    rw [BitVec.add_assoc] at hbs
    have hbyte : residentByte.run c = .ok b c := by
      rw [residentByte_run, if_neg hne, memRead_run, if_pos hbacks, hread]
    simp only [Engine.fetched, Engine.sourceBytes, hpull, hbyte, Bool.false_eq_true, if_false, hk', hbs, true_and]

/-! ### What taking bits changes -/

/-- What taking bits that the source has can change: the bit reader and, for a pulled source, the answers ready and the
handshakes made. -/
structure Engine.TookBits (c c' : Engine) : Prop where
  frame : c' = { c with
    bitacc := c'.bitacc, bitcnt := c'.bitcnt, srcPos := c'.srcPos
    ports := { c.ports with pullQ := c'.ports.pullQ, log := c'.ports.log } }
  resident : c.latch.ctrl.srcPull = false → c'.ports = c.ports

theorem Engine.TookBits.refl (c : Engine) : c.TookBits c := ⟨rfl, fun _ => rfl⟩

theorem Engine.TookBits.latch {c c' : Engine} (h : c.TookBits c') : c'.latch = c.latch := by rw [h.frame]

theorem Engine.TookBits.trans {a b c : Engine} (h : a.TookBits b) (h' : b.TookBits c) : a.TookBits c where
  frame := by
    have hc := h'.frame
    rw [h.frame] at hc
    exact hc
  resident hres := (h'.resident (by rwa [h.latch])).trans (h.resident hres)

theorem Engine.tookBits_fetched (c : Engine) (b : Byte) : c.TookBits (c.fetched b) := by
  cases hpull : c.latch.ctrl.srcPull <;> constructor <;> simp [Engine.fetched, hpull]

/-! ### One bit: 40_bitreader.md R122 -/

/-- A loaded byte stands for its bits. -/
theorem Engine.heldBits_loaded (c : Engine) (b : Byte) :
    ({ c with bitacc := b.setWidth 32, bitcnt := 8 } : Engine).heldBits = byteBits b := by
  refine List.map_congr_left fun i hi => ?_
  have hlt : i < 8 := List.mem_range.mp hi
  rw [BitVec.getLsbD_setWidth, decide_eq_true (by omega), Bool.true_and]

/-- A refill, where the source has a bit, leaves a bit held and the source bits as they are. -/
theorem refill_run_of_sourceBits {c : Engine} (h : c.sourceBits ≠ []) :
    ∃ c', refill.run c = .ok () c' ∧ c'.bitcnt ≠ 0 ∧ c'.sourceBits = c.sourceBits ∧ c.TookBits c' := by
  rw [refill_run]
  by_cases hcnt : c.bitcnt = 0
  · have hheld : c.heldBits = [] := by simp [Engine.heldBits, hcnt]
    cases hbytes : c.sourceBytes with
    | nil => simp [Engine.sourceBits, hheld, hbytes] at h
    | cons b bs =>
      obtain ⟨hrun, hrest⟩ := fetchSourceByte_run_of_sourceBytes hbytes
      refine ⟨{ c.fetched b with bitacc := b.setWidth 32, bitcnt := 8 }, by rw [if_pos hcnt, hrun], by simp, ?_,
        (c.tookBits_fetched b).trans ⟨rfl, fun _ => rfl⟩⟩
      calc ({ c.fetched b with bitacc := b.setWidth 32, bitcnt := 8 } : Engine).sourceBits
          = byteBits b ++ (c.fetched b).sourceBytes.flatMap byteBits :=
            congrArg (· ++ _) (Engine.heldBits_loaded (c.fetched b) b)
        _ = c.sourceBits := by simp [Engine.sourceBits, hheld, hbytes, hrest]
  · exact ⟨c, if_neg hcnt, hcnt, rfl, .refl c⟩

/-- The low bit of the accumulator is the first of the bits held. -/
theorem Engine.heldBits_eq_cons {c : Engine} (h : c.bitcnt ≠ 0) :
    c.heldBits = c.bitacc.getLsbD 0 ::
      ({ c with bitacc := c.bitacc >>> 1, bitcnt := c.bitcnt - 1 } : Engine).heldBits := by
  have hcnt : c.bitcnt.toNat = (c.bitcnt - 1).toNat + 1 := by bv_omega
  simp only [Engine.heldBits, hcnt, List.range_succ_eq_map, List.map_cons, List.map_map, List.cons.injEq, true_and]
  refine List.map_congr_left fun i _ => ?_
  rw [Function.comp_apply, BitVec.getLsbD_ushiftRight, Nat.add_comm]

theorem getBit_run_of_sourceBits {c : Engine} {b : Bool} {rest : List Bool} (h : c.sourceBits = b :: rest) :
    ∃ c', getBit.run c = .ok b c' ∧ c'.sourceBits = rest ∧ c.TookBits c' := by
  obtain ⟨c₁, hrefill, hcnt, hbits, htook⟩ := refill_run_of_sourceBits (c := c) (by simp [h])
  have hcons : c₁.sourceBits = c₁.bitacc.getLsbD 0 ::
      ({ c₁ with bitacc := c₁.bitacc >>> 1, bitcnt := c₁.bitcnt - 1 } : Engine).sourceBits :=
    congrArg (· ++ _) (Engine.heldBits_eq_cons hcnt)
  obtain ⟨rfl, rfl⟩ := List.cons.inj (h.symm.trans (hbits.symm.trans hcons))
  exact ⟨_, by rw [getBit_run, hrefill], rfl, htook.trans ⟨rfl, fun _ => rfl⟩⟩

/-! ### `GetBits`: 40_bitreader.md R123 -/

/-- The word of the bits of a list, the first in bit 0 (40_bitreader.md R123). -/
def bitsWord (bits : List Bool) : Word := (BitVec.ofBoolListLE bits).setWidth 32

theorem getLsbD_bitsWord (bits : List Bool) (k : Nat) :
    (bitsWord bits).getLsbD k = (decide (k < 32) && bits.getD k false) := by
  rw [bitsWord, BitVec.getLsbD_setWidth, BitVec.getLsbD_ofBoolListLE]

theorem getLsbD_bitsWord_take (bits : List Bool) {n : Nat} (hn : n ≤ 32) (k : Nat) :
    (bitsWord (bits.take n)).getLsbD k = (decide (k < n) && bits.getD k false) := by
  rw [getLsbD_bitsWord]
  by_cases hk : k < n
  · simp [hk, hk.trans_le hn]
  · simp [hk]

/-- The first bit at place `i` and the others from place `i + 1` are all of them from place `i`. -/
theorem bitsWord_cons_shiftLeft (b : Bool) (bits : List Bool) (i : Nat) :
    bitsWord (b :: bits) <<< i = (BitVec.ofBool b).setWidth 32 <<< i ||| bitsWord bits <<< (i + 1) := by
  refine BitVec.eq_of_getLsbD_eq fun j hj => ?_
  simp only [BitVec.getLsbD_or, BitVec.getLsbD_shiftLeft, getLsbD_bitsWord, BitVec.getLsbD_setWidth, hj]
  rcases Nat.lt_trichotomy j i with hlt | rfl | hgt
  · simp [hlt, Nat.lt_succ_of_lt hlt]
  · simp
  · obtain ⟨m, rfl⟩ := Nat.exists_eq_add_of_lt hgt
    have hplace : i + m + 1 - i = m + 1 ∧ i + m + 1 - (i + 1) = m ∧ ¬ i + m + 1 < i := by omega
    have hin : m < 32 ∧ m + 1 < 32 := by omega
    simp [hplace, hin]

/-- The loop takes the bits in front, the first to place `i` of `v`. -/
theorem getBitsLoop_run_of_sourceBits {bits rest : List Bool} (i : Nat) (v : Word) {c : Engine}
    (h : c.sourceBits = bits ++ rest) :
    ∃ c', (getBitsLoop bits.length i v).run c = .ok (v ||| bitsWord bits <<< i) c' ∧
      c'.sourceBits = rest ∧ c.TookBits c' := by
  induction bits generalizing i v c with
  | nil => exact ⟨c, by simp [getBitsLoop, bitsWord, BitVec.ofBoolListLE], h, .refl c⟩
  | cons b bs ih =>
    obtain ⟨c₁, hbit, hbits₁, htook₁⟩ := getBit_run_of_sourceBits h
    obtain ⟨c₂, hloop, hbits₂, htook₂⟩ := ih (i + 1) (v ||| (BitVec.ofBool b).setWidth 32 <<< i) hbits₁
    refine ⟨c₂, ?_, hbits₂, htook₁.trans htook₂⟩
    rw [List.length_cons, getBitsLoop_succ_run, hbit, bitsWord_cons_shiftLeft, ← BitVec.or_assoc]
    exact hloop

/-- `GetBits` takes the bits in front of the source, the first in bit 0. -/
theorem getBits_run_of_sourceBits {bits rest : List Bool} {c : Engine} (h : c.sourceBits = bits ++ rest) :
    ∃ c', (getBits bits.length).run c = .ok (bitsWord bits) c' ∧
      c'.sourceBits = rest ∧ c.TookBits c' := by
  simpa [getBits] using getBitsLoop_run_of_sourceBits 0 0 h

/-! ### The commands: 40_bitreader.md R127 to R129 -/

/-- `GETBYTE` is `GETBITS 8` (40_bitreader.md R128): both run `GetBits` behind the check for a stream. -/
theorem exec_getBits {i : Instr} {n : Nat} {s : State} {w : Word} {c : Engine}
    (hi : (∃ k : BitVec 6, i = .getbits k ∧ k.toNat = n) ∨ (i = .getbyte ∧ n = 8)) (hn : n ≤ 32) (hs : s.pstate ≠ .idle)
    (hrun : (getBits n).run { s.toEngine with err := .none } = .ok w c) :
    exec i s = .next (s.complete { c with result := w }) := by
  have hbody : (requireStream >>= fun _ => some <$> getBits n : Cmd (Option Word)).run { s.toEngine with err := .none } =
      .ok (some w) c := by
    simp [hs, hrun]
  rcases hi with ⟨k, rfl, rfl⟩ | ⟨rfl, rfl⟩
  · exact runCmd_of_ok (i := .getbits k) (decide_eq_true hn) hbody
  · exact runCmd_of_ok (i := .getbyte) rfl hbody

/-! ### The statements -/

/-- Settles O21, by induction on the bits taken: each is the first of the source bits, which a refill leaves as they are. -/
theorem getbitsReturnsTheNextSourceBits : Obligations.GetbitsReturnsTheNextSourceBits := by
  intro i n s hi hn hs hlen
  have hsplit := (List.take_append_drop n s.toEngine.sourceBits).symm
  obtain ⟨c, hrun, hrest, htook⟩ := getBits_run_of_sourceBits (c := { s.toEngine with err := .none }) hsplit
  rw [List.length_take_of_le hlen] at hrun
  refine ⟨_, exec_getBits hi hn hs hrun, ⟨rfl, ?_⟩, getLsbD_bitsWord_take _ hn, hrest, ?_, htook.resident, ?_⟩
  · exact congrArg Engine.err htook.frame
  · exact congrArg (fun c : Engine => s.complete { c with result := _ }) htook.frame
  · rintro rfl
    obtain ⟨-, rfl⟩ := EStateM.Result.ok.inj hrun
    exact ⟨rfl, rfl, rfl, rfl⟩

/-- Settles O22: `Align()` reads nothing, so behind the check for a stream nothing can stop it. -/
theorem alignDiscardsTheHeldBits : Obligations.AlignDiscardsTheHeldBits := by
  intro s hs
  have hbody : (requireStream >>= fun _ => alignBits >>= fun _ => pure (some 0) : Cmd (Option Word)).run
      { s.toEngine with err := .none } = .ok (some 0) { s.toEngine with err := .none, bitacc := 0, bitcnt := 0 } := by
    simp [hs, alignBits]
  exact runCmd_of_ok (i := .align) rfl hbody

end Sys2Proof.Machine
end

section
/-! SUPPORT. The checksum accumulators (41_checksum.md R141 to R150): the next state of each of the three commands, the
sums of Adler-32, CRC-32 rounds as a linear function of the word, and a run of `CKBYTE` commands as a fold of the update. At the end the settled statements. -/

namespace Sys2Proof.Machine

/-! ### The commands: 41_checksum.md R142, R144 to R146 -/

/-- The engine after a checksum command that leaves kind `k` and running state `st`: `RESULT` holds the reported form. -/
def Engine.reporting (c : Engine) (k : CkKind) (st : Word) : Engine :=
  { c with err := .none, ckKind := k, ckState := st, result := k.report st }

/-- The three commands set kind and running state, then return the reported form. -/
theorem runCmd_reportResult {i : Instr} {s : State} {x : Cmd Unit} {k : CkKind} {st : Word} (hi : i.wf = true)
    (hx : x.run { s.toEngine with err := .none } = .ok () { s.toEngine with err := .none, ckKind := k, ckState := st }) :
    runCmd i (x >>= fun _ => reportResult) s = .next (s.complete (s.toEngine.reporting k st)) := by
  have hbody : (x >>= fun _ => reportResult).run { s.toEngine with err := .none } =
      .ok (some (k.report st)) { s.toEngine with err := .none, ckKind := k, ckState := st } := by
    rw [EStateM.run_bind, hx]
    rfl
  exact runCmd_of_ok hi hbody

theorem exec_ckinit {kind : BitVec 2} (hk : (Instr.ckinit kind).wf = true) (s : State) :
    exec (.ckinit kind) s =
      .next (s.complete (s.toEngine.reporting (CkKind.ofCode kind) (CkKind.ofCode kind).seed)) :=
  (rfl : _ = execCkinit kind s).trans (runCmd_reportResult hk (by rfl))

theorem exec_ckset {kind : BitVec 2} (hk : (Instr.ckset kind).wf = true) (s : State) :
    exec (.ckset kind) s =
      .next (s.complete (s.toEngine.reporting (CkKind.ofCode kind) (if kind = 0 then 0 else s.data))) :=
  (rfl : _ = execCkset kind s).trans (runCmd_reportResult hk (by rfl))

theorem exec_ckbyte (b : Byte) (s : State) :
    exec (.ckbyte b) s = .next (s.complete (s.toEngine.reporting s.ckKind (s.ckKind.update s.ckState b))) :=
  (rfl : _ = execCkbyte b s).trans (runCmd_reportResult rfl (by rfl))

/-! ### Adler-32: 41_checksum.md R143 -/

theorem toNat_halves (hi lo : BitVec 16) : (hi ++ lo).toNat % 65536 = lo.toNat ∧ (hi ++ lo).toNat / 65536 = hi.toNat := by
  have hlo := lo.isLt
  rw [BitVec.toNat_append, ← Nat.shiftLeft_add_eq_or_of_lt hlo, Nat.shiftLeft_eq]
  omega

/-- The two sums of the update, read off the halves of the state. -/
theorem adlerUpdate_sums (st : Word) (b : Byte) :
    (adlerUpdate st b).toNat % 65536 = (st.toNat % 65536 + b.toNat) % 65521 ∧
    (adlerUpdate st b).toNat / 65536 = (st.toNat / 65536 + (st.toNat % 65536 + b.toNat) % 65521) % 65521 := by
  have hst := st.isLt
  have hlow : (st.extractLsb' 0 16).toNat = st.toNat % 65536 := by simp
  have hhigh : (st.extractLsb' 16 16).toNat = st.toNat / 65536 := by
    rw [BitVec.extractLsb'_toNat, Nat.shiftRight_eq_div_pow]
    omega
  simp only [adlerUpdate, hlow, hhigh, toNat_halves, BitVec.toNat_ofNat]
  omega

/-! ### CRC-32: 41_checksum.md R143, R150 -/

theorem crc_update (st : Word) (b : Byte) : CkKind.crc.update st b = crcRounds 8 (st ^^^ b.setWidth 32) := rfl

theorem crcRounds_eq_iterate (n : Nat) (c : Word) : crcRounds n c = crcRound^[n] c := by
  induction n generalizing c with
  | zero => rfl
  | succ n ih => exact ih (crcRound c)

theorem crcRounds_add (m n : Nat) (c : Word) : crcRounds (m + n) c = crcRounds m (crcRounds n c) := by
  simp only [crcRounds_eq_iterate, Function.iterate_add_apply]

/-- What a round adds to the shifted word: the polynomial, if the bit shifted out is 1. -/
def crcFeedback (c : Word) : Word := if c.getLsbD 0 then 0xEDB88320#32 else 0

theorem crcRound_eq (c : Word) : crcRound c = (c >>> 1) ^^^ crcFeedback c := by
  cases h : c.getLsbD 0 <;> simp only [crcRound, crcFeedback, h, Bool.false_eq_true, if_true, if_false]
  exact BitVec.xor_zero.symm

theorem crcFeedback_xor (a b : Word) : crcFeedback (a ^^^ b) = crcFeedback a ^^^ crcFeedback b := by
  simp only [crcFeedback, BitVec.getLsbD_xor]
  cases a.getLsbD 0 <;> cases b.getLsbD 0 <;> rfl

/-- A round is linear over exclusive or. -/
theorem crcRound_xor (a b : Word) : crcRound (a ^^^ b) = crcRound a ^^^ crcRound b := by
  simp only [crcRound_eq, crcFeedback_xor, BitVec.ushiftRight_xor_distrib]
  ac_rfl

theorem crcRounds_xor (n : Nat) (a b : Word) : crcRounds n (a ^^^ b) = crcRounds n a ^^^ crcRounds n b := by
  induction n generalizing a b with
  | zero => rfl
  | succ n ih => rw [crcRounds, crcRound_xor, ih, ← crcRounds, ← crcRounds]

/-- Rounds on a word whose low bits are all 0 only shift it: the polynomial never comes in. -/
theorem crcRounds_of_low_zero (n : Nat) (c : Word) (h : ∀ i < n, c.getLsbD i = false) : crcRounds n c = c >>> n := by
  induction n generalizing c with
  | zero => simp [crcRounds]
  | succ n ih =>
    have hround : crcRound c = c >>> 1 := if_neg (by rw [h 0 n.succ_pos]; decide)
    have hrest : ∀ i < n, (c >>> 1).getLsbD i = false := fun i hi => by
      rw [BitVec.getLsbD_ushiftRight]
      exact h _ (by omega)
    rw [crcRounds, hround, ih _ hrest, ← BitVec.shiftRight_add, Nat.add_comm]

/-- A table of the rounds of `n` bits takes `n` rounds at once: the rounds of a word are those of its low `n` bits and of the
rest, which they only shift. -/
theorem crcRounds_eq_table_xor_shift {n : Nat} {table : BitVec n → Word}
    (htable : ∀ x, table x = crcRounds n (x.setWidth 32)) (c : Word) :
    crcRounds n c = table (c.setWidth n) ^^^ (c >>> n) := by
  set low : Word := (c.setWidth n).setWidth 32 with hlow
  have hrest : ∀ i < n, (low ^^^ c).getLsbD i = false := fun i hi => by
    simpa [hlow, hi] using BitVec.lt_of_getLsbD
  have hshift : (low ^^^ c) >>> n = c >>> n := by
    ext i hi
    simp [hlow]
  calc crcRounds n c = crcRounds n (low ^^^ (low ^^^ c)) := by rw [← BitVec.xor_assoc, BitVec.xor_self, BitVec.zero_xor]
    _ = crcRounds n low ^^^ crcRounds n (low ^^^ c) := crcRounds_xor ..
    _ = table (c.setWidth n) ^^^ (c >>> n) := by rw [crcRounds_of_low_zero n _ hrest, hshift, htable]

/-! ### A run of `CKBYTE` commands -/

theorem RunsTo.foldl_ckbytes {s t : State} {bs : List Byte} (h : RunsTo s (bs.map .ckbyte) t) :
    t.ckKind = s.ckKind ∧ t.ckState = bs.foldl s.ckKind.update s.ckState := by
  induction bs generalizing s with
  | nil => cases h; exact ⟨rfl, rfl⟩
  | cons b bs ih =>
    cases h with
    | cons hexec _ hrun =>
      obtain rfl := Host.Outcome.next.inj ((exec_ckbyte b s).symm.trans hexec)
      exact ih hrun

theorem CkKind.ofCode_code (k : CkKind) : CkKind.ofCode k.code = k := by cases k <;> rfl

theorem CkKind.wf_ckset_code (k : CkKind) : (Instr.ckset k.code).wf = true := by cases k <;> rfl

/-! ### The statements -/

/-- Settles O15: the next states of the two commands, for each of the three legal kinds. -/
theorem ckinitAndCksetLoadTheAccumulator : Obligations.CkinitAndCksetLoadTheAccumulator := by
  intro s k hk
  obtain rfl | rfl | rfl : k = 0 ∨ k = 1 ∨ k = 2 := by bv_omega
  all_goals exact ⟨exec_ckinit rfl s, exec_ckset rfl s⟩

/-- Settles O16: the running state is `CkKind.update`, whose three arms are compared with the rule's arithmetic. -/
theorem ckbyteAccumulatesOneByte : Obligations.CkbyteAccumulatesOneByte := by
  intro s b
  refine ⟨s.ckKind.update s.ckState b, (exec_ckbyte b s).trans ?_, fun hk => ?_, fun hk => ?_, fun hk => ?_⟩
  · cases hk : s.ckKind <;> simp [State.complete, Engine.reporting, CkKind.report, hk]
  · rw [hk]; rfl
  · rw [hk]; exact adlerUpdate_sums _ _
  · rw [hk]; exact (crcRounds_eq_iterate _ _).trans (List.foldl_const crcRound _ (List.range 8)).symm

/-- Settles O17: both ways fold the update over the bytes of `x`, then over those of `y`; of kind none nothing is folded. -/
theorem checksumIgnoresChunking : Obligations.ChecksumIgnoresChunking := by
  rintro _ s t u v w x y - rfl hzero hxy hx hdata hy
  obtain ⟨htkind, htstate⟩ := hxy.foldl_ckbytes
  obtain ⟨-, hustate⟩ := hx.foldl_ckbytes
  cases hy with
  | cons hexec _ hrun =>
    obtain rfl := Host.Outcome.next.inj ((exec_ckset s.ckKind.wf_ckset_code v).symm.trans hexec)
    obtain ⟨hwkind, hwstate⟩ := hrun.foldl_ckbytes
    have hkind : CkKind.ofCode s.ckKind.code = s.ckKind := CkKind.ofCode_code _
    simp only [State.complete_toEngine, Engine.reporting, hkind] at hwkind hwstate
    refine ⟨?_, hwkind.trans htkind.symm⟩
    have hloaded : (if s.ckKind.code = 0 then 0 else v.data) = u.ckState := by
      split
      · next hcode =>
        have hnone : s.ckKind = .none := (CkKind.ofCode_code _).symm.trans (congrArg CkKind.ofCode hcode)
        rw [hustate, hnone]
        exact ((List.foldl_fixed x).trans (hzero hcode)).symm
      · exact hdata
    rw [hwstate, hloaded, hustate, htstate, List.foldl_append]

/-- Settles O19: a byte table takes the eight rounds at once, a nibble table four and four. -/
theorem crcTablesAgree : Obligations.CrcTablesAgree := by
  refine ⟨fun table htable st b => ?_, fun table htable st b => ?_⟩
  · have hshift : (st ^^^ b.setWidth 32) >>> 8 = st >>> 8 := by
      ext i hi
      simp
    rw [crc_update, crcRounds_eq_table_xor_shift htable, hshift]
  · simp only [← crcRounds_eq_table_xor_shift htable, crc_update]
    exact crcRounds_add 4 4 _

end Sys2Proof.Machine
end

section
/-! SUPPORT. The Huffman engine (42_huffman.md R162 to R179): the arithmetic of the canonical assignment, the tables that
`Build` makes of a length array, and `Decode` on the bits of a canonical code. At the end the settled statements. -/

namespace Sys2Proof.Machine

/-! ### The canonical assignment: 42_huffman.md R162 -/

/-- The place of symbol `i` in `TRANS` (42_huffman.md R162). -/
def symbolPlace (ls : List (BitVec 4)) (i : Nat) : Nat := baseIndex ls (ls.getD i 0).toNat + lengthRank ls i

/-- The canonical code of symbol `i` as a number (42_huffman.md R162). -/
def symbolCode (ls : List (BitVec 4)) (i : Nat) : Nat := firstCode ls (ls.getD i 0).toNat + lengthRank ls i

section
variable {ls : List (BitVec 4)} {i j l n : Nat}

theorem baseIndex_succ (hl : 1 ≤ l) : baseIndex ls (l + 1) = baseIndex ls l + lengthCount ls l := by
  obtain ⟨k, rfl⟩ := Nat.exists_eq_add_of_le' hl
  rfl

theorem firstCode_succ (hl : 1 ≤ l) : firstCode ls (l + 1) = 2 * (firstCode ls l + lengthCount ls l) := by
  obtain ⟨k, rfl⟩ := Nat.exists_eq_add_of_le' hl
  rfl

theorem baseIndex_mono : Monotone (baseIndex ls) := by
  refine monotone_nat_of_le_succ fun l => ?_
  cases l with
  | zero => exact Nat.le_refl 0
  | succ k => exact Nat.le_add_right _ _

/-- A symbol with a code has an index in the array. -/
theorem lt_length_of_coded (hi : ls.getD i 0 ≠ 0) : i < ls.length := by
  by_contra hge
  exact hi (List.getD_eq_default _ _ (Nat.le_of_not_lt hge))

theorem one_le_length_of_coded (hi : ls.getD i 0 ≠ 0) : 1 ≤ (ls.getD i 0).toNat :=
  Nat.pos_of_ne_zero fun h => hi (BitVec.eq_of_toNat_eq h)

theorem lengthCount_le : lengthCount ls l ≤ ls.length := List.countP_le_length

theorem lengthCount_take_succ (hn : n < ls.length) :
    lengthCount (ls.take (n + 1)) l = lengthCount (ls.take n) l + if (ls.getD n 0).toNat = l then 1 else 0 := by
  rw [lengthCount, List.take_succ_eq_append_getElem hn, List.countP_append, List.countP_singleton,
    ← List.getD_eq_getElem ls 0 hn]
  simp only [decide_eq_true_eq]
  rfl

/-- Symbol `i` is one of the symbols of its length among the first `n > i`, and its rank counts those before it. -/
theorem lengthRank_lt_lengthCount_take (hin : i < n) (hi : i < ls.length) :
    lengthRank ls i < lengthCount (ls.take n) (ls.getD i 0).toNat := by
  have hsucc := lengthCount_take_succ (l := (ls.getD i 0).toNat) hi
  rw [if_pos rfl] at hsucc
  have hmono : lengthCount (ls.take (i + 1)) (ls.getD i 0).toNat ≤ lengthCount (ls.take n) (ls.getD i 0).toNat :=
    (List.take_sublist_take_left hin).countP_le
  rw [hsucc] at hmono
  exact Nat.lt_of_succ_le hmono

theorem lengthRank_lt_lengthCount (hi : i < ls.length) : lengthRank ls i < lengthCount ls (ls.getD i 0).toNat := by
  have h := lengthRank_lt_lengthCount_take hi hi
  rwa [List.take_length] at h

/-- The places of one length end where those of the next begin. -/
theorem symbolPlace_lt (hi : ls.getD i 0 ≠ 0) : symbolPlace ls i < baseIndex ls ((ls.getD i 0).toNat + 1) := by
  rw [baseIndex_succ (one_le_length_of_coded hi)]
  exact Nat.add_lt_add_left (lengthRank_lt_lengthCount (lt_length_of_coded hi)) _

/-- Two symbols have two places: by rank within a length, by the base of the longer length otherwise. -/
theorem symbolPlace_ne (hij : i < j) (hi : ls.getD i 0 ≠ 0) (hj : ls.getD j 0 ≠ 0) :
    symbolPlace ls j ≠ symbolPlace ls i := by
  have hlt_of_shorter {a b : Nat} (ha : ls.getD a 0 ≠ 0) (hab : (ls.getD a 0).toNat < (ls.getD b 0).toNat) :
      symbolPlace ls a < symbolPlace ls b :=
    (symbolPlace_lt ha).trans_le ((baseIndex_mono hab).trans (Nat.le_add_right _ _))
  rcases Nat.lt_trichotomy (ls.getD i 0).toNat (ls.getD j 0).toNat with hlt | heq | hgt
  · exact (hlt_of_shorter hi hlt).ne'
  · have hrank := lengthRank_lt_lengthCount_take hij (lt_length_of_coded hi)
    rw [heq] at hrank
    rw [symbolPlace, symbolPlace, heq]
    exact (Nat.add_lt_add_left hrank _).ne'
  · exact (hlt_of_shorter hj hgt).ne

/-- The first code of a longer length lies past every code of length `l`, extended by zeros. -/
theorem shiftedCodes_le_firstCode (hl : 1 ≤ l) (m : Nat) :
    (firstCode ls l + lengthCount ls l) * 2 ^ (m + 1) ≤ firstCode ls (l + m + 1) := by
  induction m with
  | zero => rw [Nat.add_zero, firstCode_succ hl]; omega
  | succ m ih =>
    rw [← Nat.add_assoc l m 1, firstCode_succ (by omega), Nat.pow_succ 2 (m + 1), ← Nat.mul_assoc]
    omega
end

/-! ### The code space: 42_huffman.md R163 -/

theorem range_sixteen : List.range 16 = [0, 1, 2, 3, 4, 5, 6, 7, 8, 9, 10, 11, 12, 13, 14, 15] := by decide

/-- The codes of length 15 end where the code space that the lengths use ends. -/
theorem firstCode_add_lengthCount_maxBits (ls : List (BitVec 4)) :
    firstCode ls 15 + lengthCount ls 15 = kraftSum ls := by
  simp only [kraftSum, range_sixteen, firstCode, List.tail_cons, List.map_cons, List.map_nil, List.sum_cons,
    List.sum_nil, Nat.reduceAdd]
  omega

/-- The codes of each length lie within the code space that the lengths use. -/
theorem codeSpace_le_kraftSum (ls : List (BitVec 4)) {l : Nat} (hl : 1 ≤ l) (hmax : l ≤ 15) :
    (firstCode ls l + lengthCount ls l) * 2 ^ (15 - l) ≤ kraftSum ls := by
  have hlast := firstCode_add_lengthCount_maxBits ls
  rcases hmax.lt_or_eq with hlt | rfl
  · obtain ⟨m, hm⟩ := Nat.exists_eq_add_of_lt hlt
    have hle := shiftedCodes_le_firstCode (ls := ls) hl m
    rw [show 15 - l = m + 1 by omega]
    rw [← hm] at hle
    omega
  · simpa using hlast.le

/-- A code of a valid array is a number of as many bits as its length. -/
theorem symbolCode_lt {ls : List (BitVec 4)} {i : Nat} (hkraft : kraftSum ls ≤ 2 ^ 15) (hi : ls.getD i 0 ≠ 0) :
    symbolCode ls i < 2 ^ (ls.getD i 0).toNat := by
  have hmax : (ls.getD i 0).toNat ≤ 15 := Nat.le_of_lt_succ (ls.getD i 0).isLt
  have hspace := (codeSpace_le_kraftSum ls (one_le_length_of_coded hi) hmax).trans hkraft
  rw [← pow_mul_pow_sub 2 hmax] at hspace
  refine (Nat.add_lt_add_left (lengthRank_lt_lengthCount (lt_length_of_coded hi)) _).trans_le ?_
  exact Nat.le_of_mul_le_mul_right hspace (Nat.two_pow_pos _)

/-- `left` goes negative when the counts, as digits of base 2 from the most significant on, are more than `left` units of
the place before them: once negative it cannot recover (42_huffman.md R165). -/
theorem leftNegative_iff {left : Int} (hleft : 0 ≤ left) (cs : List Nat) :
    leftNegative left cs = true ↔ left * 2 ^ cs.length < (Nat.ofDigits 2 cs.reverse : Nat) := by
  induction cs generalizing left with
  | nil => simpa [leftNegative] using hleft
  | cons c rest ih =>
    have hpos : (0 : Int) < 2 ^ rest.length := by positivity
    rw [leftNegative, Nat.ofDigits_reverse_cons, List.length_cons, pow_succ]
    simp only [Nat.cast_add, Nat.cast_mul, Nat.cast_pow, Nat.cast_ofNat]
    by_cases hneg : 2 * left - (c : Int) < 0
    · have hdigits : (0 : Int) ≤ (Nat.ofDigits 2 rest.reverse : Nat) := Int.natCast_nonneg _
      simp only [hneg, decide_true, Bool.true_or, true_iff]
      linarith [mul_lt_mul_of_pos_right hneg hpos]
    · simp only [hneg, decide_false, Bool.false_or, ih (left := 2 * left - c) (by omega)]
      constructor <;> intro h <;> linarith

theorem overSubscribed_iff (ls : List (BitVec 4)) : overSubscribed ls = true ↔ 2 ^ 15 < kraftSum ls := by
  have hdigits : Nat.ofDigits 2 (lengthCounts ls).tail.reverse = kraftSum ls := by
    have hcount (l : Nat) : (ls.countP fun x => decide (x.toNat = l)) = lengthCount ls l := rfl
    simp only [lengthCounts, kraftSum, range_sixteen, hcount, List.map_cons, List.map_nil, List.tail_cons,
      Nat.ofDigits_reverse_cons, List.length_cons, List.length_nil, List.reverse_nil, Nat.ofDigits_nil, List.sum_cons,
      List.sum_nil, if_false, OfNat.ofNat_ne_zero, one_ne_zero]
    omega
  rw [overSubscribed, leftNegative_iff (by decide), hdigits]
  simp [lengthCounts]

/-! ### The tables of `Build`: 42_huffman.md R165 -/

/-- What a slot built from a valid length array holds (42_huffman.md R162, R165). -/
structure Tree.Canonical (t : Tree) (ls : List (BitVec 4)) : Prop where
  valid : t.valid = true
  count_zero : t.count.read 0 = some 0
  count : ∀ l, 1 ≤ l → l ≤ 15 → (t.count.read l).map BitVec.toNat = some (lengthCount ls l)
  symbol : ∀ i, ls.getD i 0 ≠ 0 → (t.trans.read (symbolPlace ls i)).map BitVec.toNat = some i

/-- A store that lists the values of a function on a range of indexes. -/
theorem read_map_range' {α : Type} (f : Nat → α) (s n k : Nat) (hs : s ≤ k) (hk : k < s + n) :
    Cells.read ((List.range' s n).map fun l => (l, f l)) k = some (f k) := by
  induction n generalizing s with
  | zero => omega
  | succ n ih =>
    rw [List.range'_succ, List.map_cons, Cells.read]
    split
    · next heq => rw [heq]
    · exact ih (s + 1) (by omega) (by omega)

theorem read_countTable (cnt : List Nat) {l : Nat} (hl : l < 16) :
    (countTable cnt).read l = some (BitVec.ofNat 9 (cnt.getD l 0)) := by
  rw [countTable, List.range_eq_range']
  exact read_map_range' _ 0 16 l (Nat.zero_le l) (by omega)

theorem getD_lengthCounts (ls : List (BitVec 4)) {l : Nat} (hl : l < 16) :
    (lengthCounts ls).getD l 0 = if l = 0 then 0 else lengthCount ls l := by
  simp [lengthCounts, lengthCount, hl]

theorem sum_take_lengthCounts (ls : List (BitVec 4)) {l : Nat} (hl : l ≤ 16) :
    ((lengthCounts ls).take l).sum = baseIndex ls l := by
  rw [lengthCounts, ← List.map_take, List.take_range, Nat.min_eq_left hl]
  clear hl
  induction l with
  | zero => rfl
  | succ l ih =>
    rw [List.range_succ, List.map_append, List.sum_append, ih]
    cases l with
    | zero => rfl
    | succ l => simp [baseIndex, lengthCount]

/-- Before symbol `n` is placed, `offs[l]` is the next free place of length `l` (42_huffman.md R165). -/
def OffsetsAt (ls : List (BitVec 4)) (n : Nat) (offs : List Nat) : Prop :=
  ∀ l, 1 ≤ l → l ≤ 15 → offs[l]? = some (baseIndex ls l + lengthCount (ls.take n) l)

theorem offsetsAt_zero (ls : List (BitVec 4)) : OffsetsAt ls 0 (offsets (lengthCounts ls)) := by
  intro l _ hl
  have hlt : l < 16 := by omega
  simp [offsets, hlt, sum_take_lengthCounts ls hlt.le, lengthCount]

section
variable {ls : List (BitVec 4)} {n : Nat} {offs : List Nat}

theorem OffsetsAt.getD_eq (h : OffsetsAt ls n offs) (hn : ls.getD n 0 ≠ 0) :
    offs.getD (ls.getD n 0).toNat 0 = symbolPlace ls n := by
  rw [List.getD_eq_getElem?_getD (l := offs), h _ (one_le_length_of_coded hn) (Nat.le_of_lt_succ (ls.getD n 0).isLt)]
  rfl

theorem OffsetsAt.skip (h : OffsetsAt ls n offs) (hlen : n < ls.length) (hn : ls.getD n 0 = 0) :
    OffsetsAt ls (n + 1) offs := by
  intro l hl hmax
  have hne : ¬ (ls.getD n 0).toNat = l := by rw [hn]; exact Nat.ne_of_lt hl
  rw [lengthCount_take_succ hlen, if_neg hne]
  exact h l hl hmax

theorem OffsetsAt.set (h : OffsetsAt ls n offs) (hn : ls.getD n 0 ≠ 0) :
    OffsetsAt ls (n + 1) (offs.set (ls.getD n 0).toNat (symbolPlace ls n + 1)) := by
  intro l hl hmax
  have hold := h l hl hmax
  have hin : l < offs.length := (List.getElem?_eq_some_iff.mp hold).1
  rw [lengthCount_take_succ (lt_length_of_coded hn), List.getElem?_set]
  split
  · next heq => subst heq; rw [if_pos hin]; rfl
  · exact hold
end

/-- `tab'` is `tab` with every coded symbol from `n` on written at its place. -/
structure PlacedFrom (ls : List (BitVec 4)) (n : Nat) (tab tab' : Cells (BitVec 9)) : Prop where
  placed : ∀ j, n ≤ j → ls.getD j 0 ≠ 0 → tab'.read (symbolPlace ls j) = some (BitVec.ofNat 9 j)
  kept : ∀ k, (∀ j, n ≤ j → ls.getD j 0 ≠ 0 → symbolPlace ls j ≠ k) → tab'.read k = tab.read k

section
variable {ls : List (BitVec 4)} {n : Nat} {tab tab' : Cells (BitVec 9)}

theorem PlacedFrom.skip (h : PlacedFrom ls (n + 1) tab tab') (hn : ls.getD n 0 = 0) : PlacedFrom ls n tab tab' where
  placed j hj hcoded := h.placed j (hj.lt_of_ne fun heq => hcoded (heq ▸ hn)) hcoded
  kept k hk := h.kept k fun j hj => hk j (Nat.le_of_succ_le hj)

/-- The later symbols go to other places, so symbol `n` stays where it was written. -/
theorem PlacedFrom.write (h : PlacedFrom ls (n + 1) (tab.write (symbolPlace ls n) (BitVec.ofNat 9 n)) tab')
    (hn : ls.getD n 0 ≠ 0) : PlacedFrom ls n tab tab' where
  placed j hj hcoded := by
    rcases hj.eq_or_lt with rfl | hlt
    · rw [h.kept _ fun j hj hj' => symbolPlace_ne hj hn hj', Cells.read_write_same]
    · exact h.placed j hlt hcoded
  kept k hk := by
    rw [h.kept k fun j hj => hk j (Nat.le_of_succ_le hj)]
    exact Cells.read_write_other _ _ _ _ (hk n le_rfl hn).symm

theorem placedFrom_placeSymbols {rest : List (BitVec 4)} {offs : List Nat} (hdrop : ls.drop n = rest)
    (hoffs : OffsetsAt ls n offs) : PlacedFrom ls n tab (placeSymbols n rest offs tab) := by
  induction rest generalizing n offs tab with
  | nil =>
    have hlen : ls.length ≤ n := List.drop_eq_nil_iff.mp hdrop
    exact ⟨fun j hj hcoded => absurd (lt_length_of_coded hcoded) (by omega), fun _ _ => rfl⟩
  | cons l rest ih =>
    have hlen : n < ls.length := by
      by_contra hge
      rw [List.drop_eq_nil_iff.mpr (Nat.le_of_not_lt hge)] at hdrop
      cases hdrop
    obtain ⟨hl, hdrop'⟩ := List.cons.inj ((List.drop_eq_getElem_cons hlen).symm.trans hdrop)
    rw [← List.getD_eq_getElem ls 0 hlen] at hl
    rw [placeSymbols, ← hl]
    split
    · next hzero => exact (ih hdrop' (hoffs.skip hlen hzero)).skip hzero
    · next hcoded =>
      rw [hoffs.getD_eq hcoded]
      exact (ih hdrop' (hoffs.set hcoded)).write hcoded
end

theorem placedFrom_builtTree (old : Tree) (ls : List (BitVec 4)) :
    PlacedFrom ls 0 old.trans (builtTree old ls).trans :=
  placedFrom_placeSymbols rfl (offsetsAt_zero ls)

/-- Counts and indexes fit their 9 bits. -/
theorem canonical_builtTree (old : Tree) {ls : List (BitVec 4)} (hlen : ls.length ≤ 288) :
    (builtTree old ls).Canonical ls where
  valid := rfl
  count_zero := by
    show (countTable (lengthCounts ls)).read 0 = some 0
    rw [read_countTable _ (by decide), getD_lengthCounts ls (by decide)]
    rfl
  count l hl hmax := by
    show ((countTable (lengthCounts ls)).read l).map BitVec.toNat = _
    have hfit : lengthCount ls l < 2 ^ 9 := by
      have := lengthCount_le (ls := ls) (l := l)
      omega
    rw [read_countTable _ (by omega), getD_lengthCounts ls (by omega), if_neg (by omega), Option.map_some,
      BitVec.toNat_ofNat, Nat.mod_eq_of_lt hfit]
  symbol i hi := by
    have hfit : i < 2 ^ 9 := by
      have := lt_length_of_coded hi
      omega
    rw [(placedFrom_builtTree old ls).placed i (Nat.zero_le i) hi, Option.map_some, BitVec.toNat_ofNat,
      Nat.mod_eq_of_lt hfit]

/-- No symbol's place reaches the sum of the counts. -/
theorem read_builtTree_trans_of_le (old : Tree) (ls : List (BitVec 4)) {k : Nat} (hk : baseIndex ls 16 ≤ k) :
    (builtTree old ls).trans.read k = old.trans.read k := by
  refine (placedFrom_builtTree old ls).kept k fun j _ hj => ?_
  have hmono := baseIndex_mono (ls := ls) (ls.getD j 0).isLt
  exact ((symbolPlace_lt hj).trans_le (hmono.trans hk)).ne

/-! ### `BUILD`: 42_huffman.md R177 -/

theorem readLens_succ_run (base num : Nat) (c : Engine) :
    (readLens base (num + 1)).run c = match c.len.read base with
      | none => .error (.fault (.unwrittenLen base)) c
      | some v => match (readLens (base + 1) num).run c with
        | .ok rest c' => .ok (v :: rest) c'
        | .error e c' => .error e c' := by
  rw [readLens, EStateM.run_bind, lenRead_run]
  cases c.len.read base with
  | none => rfl
  | some v =>
    simp only [EStateM.run_bind]
    cases (readLens (base + 1) num).run c <;> rfl

theorem readLens_run_of_written {c : Engine} {ls : List (BitVec 4)} {base num : Nat} (hlen : ls.length = num)
    (h : ∀ k, k < num → c.len.read (base + k) = ls[k]?) : (readLens base num).run c = .ok ls c := by
  subst hlen
  induction ls generalizing base with
  | nil => rfl
  | cons v rest ih =>
    have hfirst : c.len.read base = some v := h 0 (Nat.zero_lt_succ _)
    have hrest := ih (base := base + 1) fun k hk => by
      rw [Nat.add_assoc, Nat.add_comm 1 k]
      exact h (k + 1) (Nat.succ_lt_succ hk)
    rw [List.length_cons, readLens_succ_run, hfirst]
    simp only [hrest]

theorem readLens_run_of_unwritten {c : Engine} {base num j : Nat} (hj : j < num)
    (hwritten : ∀ k, k < j → (c.len.read (base + k)).isSome = true) (hnone : c.len.read (base + j) = none) :
    (readLens base num).run c = .error (.fault (.unwrittenLen (base + j))) c := by
  induction j generalizing base num with
  | zero =>
    obtain ⟨num, rfl⟩ := Nat.exists_eq_add_of_le' hj
    rw [readLens_succ_run, show c.len.read base = none from hnone]
    rfl
  | succ j ih =>
    obtain ⟨num, rfl⟩ := Nat.exists_eq_add_of_le' (Nat.zero_lt_of_lt hj)
    obtain ⟨v, hv⟩ := Option.isSome_iff_exists.mp (hwritten 0 (Nat.succ_pos j))
    have hshift (k : Nat) : base + (k + 1) = base + 1 + k := by omega
    have hrest := ih (base := base + 1) (Nat.lt_of_succ_lt_succ hj)
      (fun k hk => hshift k ▸ hwritten (k + 1) (Nat.succ_lt_succ hk)) (hshift j ▸ hnone)
    rw [readLens_succ_run, show c.len.read base = some v from hv, hshift j]
    simp only [hrest]

/-- Replacing a slot's contents leaves `ERR` as it is, whatever it is. -/
theorem Engine.setTree_with_err (c : Engine) (e : Err) (sl : Slot) (t : Tree) :
    ({ c with err := e } : Engine).setTree sl t = { c.setTree sl t with err := e } := by cases sl <;> rfl

theorem Engine.tree_with_err (c : Engine) (e : Err) (sl : Slot) : ({ c with err := e } : Engine).tree sl = c.tree sl := by
  cases sl <;> rfl

/-- The engine after `BUILD`, which leaves `t` in the slot and reports `e` (42_huffman.md R177). -/
def Engine.afterBuild (c : Engine) (sl : Slot) (t : Tree) (e : Err) : Engine :=
  { c.setTree sl t with result := 0, err := e }

@[simp] theorem Engine.afterBuild_tree (c : Engine) (sl : Slot) (t : Tree) (e : Err) :
    (c.afterBuild sl t e).tree sl = t := by cases sl <;> rfl

@[simp] theorem Engine.afterBuild_sourceBits (c : Engine) (sl : Slot) (t : Tree) (e : Err) :
    (c.afterBuild sl t e).sourceBits = c.sourceBits := by cases sl <;> rfl

@[simp] theorem Engine.afterBuild_pstate (c : Engine) (sl : Slot) (t : Tree) (e : Err) :
    (c.afterBuild sl t e).pstate = c.pstate := by cases sl <;> rfl

section
variable {s : State} {slot : BitVec 2} {base num : BitVec 9} {ls : List (BitVec 4)}
  (hwf : (Instr.build slot base num).wf = true) (hlen : ls.length = num.toNat)
  (hls : ∀ k, k < num.toNat → s.len.read (base.toNat + k) = ls[k]?)

include hwf hlen hls

/-- Over-subscribed lengths: `Build` fails (42_huffman.md R166). -/
theorem exec_build_of_overSubscribed (hover : 2 ^ 15 < kraftSum ls) :
    exec (.build slot base num) s = .next (s.complete (s.toEngine.afterBuild (Slot.ofCode slot)
      (failedTree (s.toEngine.tree (Slot.ofCode slot))) .treeOversub)) := by
  have hread := readLens_run_of_written (c := { s.toEngine with err := .none }) hlen hls
  have hbody : (readLens base.toNat num.toNat >>= fun ls => buildTree (Slot.ofCode slot) ls >>= fun _ => pure (some 0) :
      Cmd (Option Word)).run { s.toEngine with err := .none } = .error (.raise .treeOversub)
        ({ s.toEngine with err := .none }.setTree (Slot.ofCode slot)
          (failedTree (s.toEngine.tree (Slot.ofCode slot)))) := by
    simp [hread, buildTree_run, (overSubscribed_iff ls).mpr hover, Engine.tree_with_err]
  refine (runCmd_of_raise hwf hbody).trans ?_
  rw [Engine.setTree_with_err]
  rfl

/-- Valid lengths: `Build` makes the tables (42_huffman.md R165). -/
theorem exec_build_of_valid (hvalid : kraftSum ls ≤ 2 ^ 15) :
    exec (.build slot base num) s = .next (s.complete (s.toEngine.afterBuild (Slot.ofCode slot)
      (builtTree (s.toEngine.tree (Slot.ofCode slot)) ls) .none)) := by
  have hread := readLens_run_of_written (c := { s.toEngine with err := .none }) hlen hls
  have hbody : (readLens base.toNat num.toNat >>= fun ls => buildTree (Slot.ofCode slot) ls >>= fun _ => pure (some 0) :
      Cmd (Option Word)).run { s.toEngine with err := .none } = .ok (some 0)
        ({ s.toEngine with err := .none }.setTree (Slot.ofCode slot)
          (builtTree (s.toEngine.tree (Slot.ofCode slot)) ls)) := by
    simp [hread, buildTree_run, (overSubscribed_iff ls).not.mpr hvalid.not_gt, Engine.tree_with_err]
  refine (runCmd_of_ok hwf hbody).trans ?_
  rw [Engine.setTree_with_err]
  rfl
end

/-- The first entry never written stops `BUILD` (93_implementation_defined.md U1). -/
theorem exec_build_of_unwritten {s : State} {slot : BitVec 2} {base num : BitVec 9} {j : Nat}
    (hwf : (Instr.build slot base num).wf = true) (hj : j < num.toNat)
    (hwritten : ∀ k, k < j → (s.len.read (base.toNat + k)).isSome = true)
    (hnone : s.len.read (base.toNat + j) = none) :
    exec (.build slot base num) s = .fault (.unwrittenLen (base.toNat + j)) := by
  have hread := readLens_run_of_unwritten (c := { s.toEngine with err := .none }) hj hwritten hnone
  show execBuild slot base num s = _
  simp [execBuild, runCmd, hwf, hread]

/-- `BUILD` takes at most 288 lengths. -/
theorem num_le_of_wf_build {slot : BitVec 2} {base num : BitVec 9} (h : (Instr.build slot base num).wf = true) :
    num.toNat ≤ 288 := by
  have hcap : ∀ v : BitVec 2, slotCapacity v ≤ 288 := by decide
  have := hcap slot
  simp only [Instr.wf, Bool.and_eq_true, decide_eq_true_eq] at h
  omega

/-! ### `Decode` on the bits of a code: 42_huffman.md R171, R172 -/

/-- The low `n` bits of a number, most significant first (20_memory.md R68). -/
def lowBits (v n : Nat) : List Bool := (List.range n).map fun k => v.testBit (n - 1 - k)

theorem codeBits_eq (ls : List (BitVec 4)) (i : Nat) : codeBits ls i = lowBits (symbolCode ls i) (ls.getD i 0).toNat := rfl

theorem lowBits_succ (v n : Nat) : lowBits v (n + 1) = v.testBit n :: lowBits v n := by
  simp only [lowBits, List.range_succ_eq_map, List.map_cons, List.map_map]
  refine congrArg (_ :: ·) (List.map_congr_left fun k _ => ?_)
  simp only [Function.comp_apply]
  congr 1
  omega

/-- One more bit behind the running code value. -/
theorem two_mul_div_add_testBit (v n : Nat) : 2 * (v / 2 ^ (n + 1)) + (v.testBit n).toNat = v / 2 ^ n := by
  rw [Nat.pow_succ, ← Nat.div_div_eq_div_mul, Nat.testBit_eq_decide_div_mod_eq]
  rcases Nat.mod_two_eq_zero_or_one (v / 2 ^ n) with h | h <;> simp [h] <;> omega

/-- The loop from length `l` on, with the last `m + 1` bits of the code in front of the source. A shorter length never
matches: the bits read so far lie past every code of that length. -/
theorem decodeLoop_run_of_code {sl : Slot} {t : Tree} {ls : List (BitVec 4)} {i : Nat} (ht : t.Canonical ls)
    (hi : ls.getD i 0 ≠ 0) (k : Nat) {l m : Nat} (hl : 1 ≤ l) (hlm : l + m = (ls.getD i 0).toNat) {c : Engine}
    {rest : List Bool} (hbits : c.sourceBits = lowBits (symbolCode ls i) (m + 1) ++ rest) :
    ∃ sym c', (decodeLoop sl t (k + m + 1) l (symbolCode ls i / 2 ^ (m + 1)) (firstCode ls l) (baseIndex ls l)).run c =
        .ok sym c' ∧ sym.toNat = i ∧ c'.sourceBits = rest ∧ c.TookBits c' := by
  induction m generalizing l c with
  | zero =>
    obtain ⟨c₁, hbit, hrest, htook⟩ := getBit_run_of_sourceBits hbits
    obtain ⟨n, hn, hcount⟩ := Option.map_eq_some_iff.mp (ht.count l hl (by omega))
    obtain ⟨sym, hsym, hval⟩ := Option.map_eq_some_iff.mp (ht.symbol i hi)
    have hmatch : symbolCode ls i - firstCode ls l = lengthRank ls i := by
      rw [symbolCode, ← hlm]
      exact Nat.add_sub_cancel_left _ _
    have hrank : lengthRank ls i < n.toNat := by
      rw [hcount]
      have h := lengthRank_lt_lengthCount (lt_length_of_coded hi)
      rwa [← hlm] at h
    have hplace : baseIndex ls l + lengthRank ls i = symbolPlace ls i := by rw [symbolPlace, ← hlm]; rfl
    refine ⟨sym, c₁, ?_, hval, hrest, htook⟩
    rw [decodeLoop_succ_run, hbit]
    simp only [hn, two_mul_div_add_testBit, Nat.pow_zero, Nat.div_one, hmatch, if_pos hrank, hplace, treeEntry_run, hsym]
  | succ m ih =>
    rw [lowBits_succ] at hbits
    obtain ⟨c₁, hbit, hrest, htook⟩ := getBit_run_of_sourceBits hbits
    obtain ⟨n, hn, hcount⟩ := Option.map_eq_some_iff.mp (ht.count l hl (by omega))
    have hpast : firstCode ls l + lengthCount ls l ≤ symbolCode ls i / 2 ^ (m + 1) := by
      rw [Nat.le_div_iff_mul_le (Nat.two_pow_pos _)]
      refine (shiftedCodes_le_firstCode hl m).trans ?_
      rw [show l + m + 1 = (ls.getD i 0).toNat from hlm]
      exact Nat.le_add_right _ _
    have hno : ¬ symbolCode ls i / 2 ^ (m + 1) - firstCode ls l < n.toNat := by omega
    obtain ⟨sym, c₂, hloop, hval, hrest₂, htook₂⟩ := ih (l := l + 1) (by omega) (by omega) hrest
    refine ⟨sym, c₂, ?_, hval, hrest₂, htook.trans htook₂⟩
    rw [firstCode_succ hl, baseIndex_succ hl, ← hcount] at hloop
    rw [← Nat.add_assoc, decodeLoop_succ_run, hbit]
    simp only [hn, two_mul_div_add_testBit, if_neg hno, hloop]

/-- `Decode` of a canonical code in front of the source takes just the code. -/
theorem decodeSymbol_run_of_code {sl : Slot} {ls : List (BitVec 4)} {i : Nat} {c : Engine} {rest : List Bool}
    (ht : (c.tree sl).Canonical ls) (hkraft : kraftSum ls ≤ 2 ^ 15) (hi : ls.getD i 0 ≠ 0)
    (hbits : c.sourceBits = codeBits ls i ++ rest) :
    ∃ sym c', (decodeSymbol sl).run c = .ok sym c' ∧ sym.toNat = i ∧ c'.sourceBits = rest ∧ c.TookBits c' := by
  obtain ⟨m, hm⟩ := Nat.exists_eq_add_of_le (one_le_length_of_coded hi)
  obtain ⟨k, hk⟩ := Nat.exists_eq_add_of_le' (Nat.le_of_lt_succ (ls.getD i 0).isLt)
  have hstart : symbolCode ls i / 2 ^ (m + 1) = 0 := by
    rw [Nat.add_comm, ← hm]
    exact Nat.div_eq_of_lt (symbolCode_lt hkraft hi)
  rw [codeBits_eq, hm, Nat.add_comm 1 m] at hbits
  obtain ⟨sym, c', hloop, hloop'⟩ := decodeLoop_run_of_code (sl := sl) ht hi k le_rfl hm.symm hbits
  rw [hstart] at hloop
  refine ⟨sym, c', ?_, hloop'⟩
  have hfuel : Config.maxBits = k + m + 1 := by
    rw [Config.maxBits]
    omega
  simpa [decodeSymbol, ht.valid, hfuel, firstCode, baseIndex] using hloop

/-- `DECODE` from a slot that holds the tables of a valid length array (42_huffman.md R171, R174, R179). -/
theorem exec_decode_of_code {slot : BitVec 2} {ls : List (BitVec 4)} {i : Nat} {s : State} (hslot : slot ≠ 3)
    (ht : (s.toEngine.tree (Slot.ofCode slot)).Canonical ls) (hkraft : kraftSum ls ≤ 2 ^ 15) (hi : ls.getD i 0 ≠ 0)
    (hs : s.pstate ≠ .idle) (hbits : codeBits ls i <+: s.toEngine.sourceBits) :
    ∃ u : State, exec (.decode slot) s = .next u ∧ u.ok ∧ u.result.toNat = i ∧
      u.toEngine.sourceBits = s.toEngine.sourceBits.drop (ls.getD i 0).toNat ∧
      u = { s with
        toEngine := { s.toEngine with
          bitacc := u.bitacc, bitcnt := u.bitcnt, srcPos := u.srcPos, result := u.result, err := .none
          ports := { s.ports with pullQ := u.ports.pullQ, log := u.ports.log } }
        busy := false, running := none } := by
  obtain ⟨rest, hrest⟩ := hbits
  have hdrop : s.toEngine.sourceBits.drop (ls.getD i 0).toNat = rest := by
    rw [← hrest]
    exact List.drop_left' (by simp [codeBits])
  rw [← Engine.tree_with_err _ .none] at ht
  obtain ⟨sym, c, hrun, hval, hleft, htook⟩ :=
    decodeSymbol_run_of_code (c := { s.toEngine with err := .none }) ht hkraft hi hrest.symm
  have hbody : (requireStream >>= fun _ => decodeSymbol (Slot.ofCode slot) >>= fun sym => pure (some (sym.setWidth 32)) :
      Cmd (Option Word)).run { s.toEngine with err := .none } = .ok (some (sym.setWidth 32)) c := by
    simp [hs, hrun]
  have hwf : (Instr.decode slot).wf = true := decide_eq_true (by bv_omega)
  refine ⟨_, runCmd_of_ok hwf hbody, ⟨rfl, congrArg Engine.err htook.frame⟩, ?_, hleft.trans hdrop.symm, ?_⟩
  · exact (BitVec.toNat_setWidth_of_le (by decide)).trans hval
  · exact congrArg (fun c : Engine => s.complete { c with result := _ }) htook.frame

/-! ### The statements -/

/-- Settles O26: the counts decide between the two slots of R165 and R166, and the places of the symbols are all different. -/
theorem buildMakesTheCanonicalTables : Obligations.BuildMakesTheCanonicalTables := by
  refine ⟨fun s slot base num ls hwf hlen hls => ?_, fun s slot base num j hwf hj hwritten hnone => ?_,
    fun c t => ⟨rfl, rfl, rfl, rfl, rfl, rfl⟩⟩
  · have hmax : ls.length ≤ 288 := hlen ▸ num_le_of_wf_build hwf
    rcases Nat.lt_or_ge (2 ^ 15) (kraftSum ls) with hover | hvalid
    · refine ⟨failedTree (s.toEngine.tree (Slot.ofCode slot)), ?_, fun _ => ?_, fun hle => absurd hover hle.not_gt⟩
      · rw [if_pos hover]
        exact exec_build_of_overSubscribed hwf hlen hls hover
      · exact ⟨rfl, rfl, fun l hl => read_countTable [] hl⟩
    · refine ⟨builtTree (s.toEngine.tree (Slot.ofCode slot)) ls, ?_, fun hgt => absurd hgt hvalid.not_gt, fun _ => ?_⟩
      · rw [if_neg hvalid.not_gt]
        exact exec_build_of_valid hwf hlen hls hvalid
      · obtain ⟨hbuilt, hzero, hcount, hsymbol⟩ := canonical_builtTree (s.toEngine.tree (Slot.ofCode slot)) hmax
        exact ⟨hbuilt, hzero, hcount, fun i _ => hsymbol i, fun k => read_builtTree_trans_of_le _ ls⟩
  · exact exec_build_of_unwritten hwf hj hwritten hnone

/-- Settles O28, by induction on the bits of the code that are left: the bits read before the last lie past every shorter code. -/
theorem decodeReturnsTheSymbolOfItsCode : Obligations.DecodeReturnsTheSymbolOfItsCode := by
  intro slot ls i hslot hlen hkraft _ hi
  refine ⟨fun t old htree hs hbits => ?_, fun s base num hwf hnum hls hs hbits => ?_⟩
  · exact exec_decode_of_code hslot (htree ▸ canonical_builtTree old hlen) hkraft hi hs hbits
  · have hbuild := exec_build_of_valid hwf hnum hls hkraft
    obtain ⟨u, hexec, hok, hresult, htaken, -⟩ := exec_decode_of_code (s := s.complete (s.toEngine.afterBuild
      (Slot.ofCode slot) (builtTree (s.toEngine.tree (Slot.ofCode slot)) ls) .none)) (ls := ls) (i := i) hslot
      (by simpa using canonical_builtTree _ hlen) hkraft hi (by simpa using hs) (by simpa using hbits)
    refine ⟨_, u, hbuild, ⟨rfl, rfl⟩, hexec, hok, hresult, ?_⟩
    simpa using htaken

end Sys2Proof.Machine
end

section
/-! SUPPORT. Reading history and entering the ring (43_window.md R191, R194, R201, R203): what `HistRead` returns from each of its
three sources, and the next state of `GET` and of `PRELOAD`. At the end the settled statements. -/

namespace Sys2Proof.Machine

/-! ### `HistRead`: 43_window.md R194 -/

/-- From the resident slice or the ring `HistRead` returns the history byte and changes nothing. -/
theorem histRead_run_of_histByte {c : Engine} {d : Nat} {b : Byte} (h : c.histByte d = some b) :
    (histRead d).run c = .ok b c := by
  rw [Engine.histByte] at h
  rw [histRead_run]
  split at h
  · next hres =>
    split at h
    · next hbacks => rw [if_pos hres, memRead_run, if_pos hbacks, h]
    · cases h
  · next hres =>
    split at h
    · next hring => rw [if_neg hres, if_pos hring, ringRead_run, h]
    · cases h

/-- Where neither the resident slice nor the ring reaches, `HistRead` takes the host's answer for the position `d` bytes back. -/
theorem histRead_run_of_readDest {c : Engine} {d : Nat} {b : Byte} {rest : List Byte}
    (hres : c.latch.ctrl.dstRes = true → c.dstPos.toNat < d) (hring : c.latch.ringCap = 0 ∨ c.ringFill.toNat < d)
    (hq : c.ports.readDestQ = b :: rest) :
    (histRead d).run c = .ok b { c with
      ports := { c.ports with
        readDestQ := rest, log := c.ports.log ++ [.readDest (c.outCount - BitVec.ofNat 32 d) b] } } := by
  have hres' : ¬ (c.latch.ctrl.dstRes && decide (d ≤ c.dstPos.toNat)) = true := by simpa using hres
  have hring' : ¬ (decide (c.latch.ringCap ≠ 0) && decide (d ≤ c.ringFill.toNat)) = true := by
    simpa [or_iff_not_imp_left] using hring
  rw [histRead_run, if_neg hres', if_neg hring', readDest_run, hq]

/-! ### The commands: 43_window.md R201, R203 -/

/-- `GET` of a covered distance returns what `HistRead` reads. -/
theorem exec_get_of_histRead {s : State} {d : BitVec 16} {b : Byte} {c : Engine} (hs : s.pstate ≠ .idle)
    (hcov : s.toEngine.covered d.toNat = true) (hread : (histRead d.toNat).run { s.toEngine with err := .none } = .ok b c) :
    exec (.get d) s = .next (s.complete { c with result := b.setWidth 32 }) := by
  have hcov' : ({ s.toEngine with err := .none } : Engine).covered d.toNat = true := hcov
  exact runCmd_of_ok (i := .get d) (r := some (b.setWidth 32)) rfl (by simp [hs, hcov', hread])

/-- `PRELOAD`, where it is accepted, is a ring write (43_window.md R191, R192, R203). -/
theorem exec_preload_of_accepted {s : State} {b : Byte} (hcap : s.latch.ringCap ≠ 0) (hs : s.pstate = .hdr)
    (hsat : s.outSat = 0) :
    exec (.preload b) s =
      .next (s.complete { s.toEngine.ringWritten b with result := 0, err := .none }) := by
  have hcap' : s.latch.ringCap ≠ 0#16 := hcap
  exact runCmd_of_ok (i := .preload b) (r := some 0) (c := { s.toEngine.ringWritten b with err := .none }) rfl
    (by simp [hs, hcap', hsat, ringWrite_run, Engine.ringWritten])

/-! ### The statements -/

/-- Settles O31: the byte is read from the resident slice or the ring, which changes nothing, or is the host's answer. -/
theorem getReturnsTheHistoryByte : Obligations.GetReturnsTheHistoryByte := by
  intro s d hs hcov
  refine ⟨fun b hb => ?_, fun b rest hres hring hq => ?_⟩
  · exact exec_get_of_histRead hs hcov (histRead_run_of_histByte hb)
  · exact exec_get_of_histRead hs hcov (histRead_run_of_readDest hres hring hq)

/-- Settles O36: of the ring only the place `RING_IDX` is written. -/
theorem preloadEntersTheRingOnly : Obligations.PreloadEntersTheRingOnly := by
  intro s b hcap hs hsat
  exact ⟨_, exec_preload_of_accepted hcap hs hsat, fun k => Cells.read_write _ _ k b⟩

end Sys2Proof.Machine
end

section
/-! SUPPORT. Coverage only grows (43_window.md R198): what a piece of a command leaves in the engine wherever it ends, a wait among
the ends, for the pieces that emit nothing and for those that emit. At the end the settled statement. -/

namespace Sys2Proof.Machine

/-! ### The engine a piece of a command leaves, wherever it ends -/

section
variable {α β : Type} {c : Engine} {P : Engine → Prop}

/-- A sequence ends where its first piece stops, or where the second one ends. -/
theorem Cmd.after_bind_of {x : Cmd α} {f : α → Cmd β} (hx : P (x.after c))
    (hf : ∀ a c', x.run c = .ok a c' → P c' → P ((f a).after c')) : P ((x >>= f).after c) := by
  cases h : x.run c with
  | ok a c' =>
    rw [Cmd.after_of_ok h] at hx
    have hafter : (x >>= f).after c = (f a).after c' := by simp [Cmd.after, EStateM.run_bind, h]
    rw [hafter]
    exact hf a c' h hx
  | error e c' =>
    rw [Cmd.after_of_error h] at hx
    rwa [Cmd.after_of_error (x := x >>= f) (by rw [EStateM.run_bind, h])]

theorem Cmd.after_get_bind {f : Engine → Cmd α} : (get >>= f).after c = (f c).after c := rfl

theorem Cmd.after_ite {p : Prop} [Decidable p] {x y : Cmd α} (hx : p → P (x.after c)) (hy : ¬ p → P (y.after c)) :
    P ((if p then x else y).after c) := by
  split
  · exact hx ‹_›
  · exact hy ‹_›

theorem after_require_bind {ok : Bool} {e : Err} {f : Unit → Cmd α} (hno : P c) (hok : ok = true → P ((f ()).after c)) :
    P ((require ok e >>= f).after c) := by
  cases ok with
  | false => exact hno
  | true => exact hok rfl

theorem after_requireStream_bind {f : Unit → Cmd α} (hno : P c) (hok : P ((f ()).after c)) :
    P ((requireStream >>= f).after c) := by
  rw [requireStream, bind_assoc, Cmd.after_get_bind]
  exact after_require_bind hno fun _ => hok
end

/-! ### Pieces that emit nothing -/

/-- Between `c` and `c'` nothing was emitted: the configuration, memory, the window and the counters of `Emit` are as they were.
The sequencer may have moved. -/
structure Engine.Silent (c c' : Engine) : Prop where
  latch : c'.latch = c.latch := by rfl
  mem : c'.mem = c.mem := by rfl
  ring : c'.ring = c.ring := by rfl
  ringIdx : c'.ringIdx = c.ringIdx := by rfl
  ringFill : c'.ringFill = c.ringFill := by rfl
  dstPos : c'.dstPos = c.dstPos := by rfl
  outCount : c'.outCount = c.outCount := by rfl
  outSat : c'.outSat = c.outSat := by rfl

theorem Engine.Silent.trans {a b c : Engine} (h : a.Silent b) (h' : b.Silent c) : a.Silent c where
  latch := h'.latch.trans h.latch
  mem := h'.mem.trans h.mem
  ring := h'.ring.trans h.ring
  ringIdx := h'.ringIdx.trans h.ringIdx
  ringFill := h'.ringFill.trans h.ringFill
  dstPos := h'.dstPos.trans h.dstPos
  outCount := h'.outCount.trans h.outCount
  outSat := h'.outSat.trans h.outSat

theorem BitFrame.silent {c c' : Engine} (h : BitFrame c c') : c.Silent c' := by
  rw [h]
  exact {}

theorem Engine.Silent.hasRoom {c c' : Engine} {n : Nat} (h : c.Silent c') (hroom : c.HasRoom n) : c'.HasRoom n := by
  rw [Engine.HasRoom, h.latch, h.dstPos]
  exact hroom

/-- A piece that emits nothing, wherever it ends. -/
structure Cmd.Silent {α : Type} (x : Cmd α) : Prop where
  after : ∀ c : Engine, c.Silent (x.after c)

section
variable {α β : Type} {x y : Cmd α} {f : α → Cmd β}

theorem Cmd.Silent.bind (hx : x.Silent) (hf : ∀ a, (f a).Silent) : (x >>= f).Silent :=
  ⟨fun c => Cmd.after_bind Engine.Silent .trans x f c (hx.after c) fun a c' => (hf a).after c'⟩

theorem Cmd.Silent.ite {p : Prop} [Decidable p] (hx : x.Silent) (hy : y.Silent) : (if p then x else y).Silent :=
  ⟨fun c => Cmd.after_ite (fun _ => hx.after c) fun _ => hy.after c⟩

theorem silent_pure (a : α) : (pure a : Cmd α).Silent := ⟨fun _ => {}⟩

theorem silent_throw (stop : Stop) : (throw stop : Cmd α).Silent := ⟨fun _ => {}⟩

theorem silent_raise (e : Err) : (raise e : Cmd α).Silent := silent_throw _

theorem Cmd.Silent.map (hx : x.Silent) (g : α → β) : (g <$> x).Silent := by
  rw [← bind_pure_comp]
  exact hx.bind fun a => silent_pure (g a)
end

theorem silent_get : (get : Cmd Engine).Silent := ⟨fun _ => {}⟩

theorem silent_modify {f : Engine → Engine} (h : ∀ c : Engine, c.Silent (f c)) : (modify f : Cmd PUnit).Silent := ⟨h⟩

theorem silent_require (ok : Bool) (e : Err) : (require ok e).Silent := .ite (silent_pure ()) (silent_raise e)

/-! ### The bit reader, the Huffman engine and the dynamic header emit nothing -/

theorem silent_getBits (n : Nat) : (getBits n).Silent := ⟨fun c => (getBits_frame n c).silent⟩

theorem silent_decodeSymbol (s : Slot) : (decodeSymbol s).Silent := ⟨fun c => (decodeSymbol_frame s c).silent⟩

theorem silent_alignBits : alignBits.Silent := silent_modify fun _ => {}

theorem silent_lenRead (i : Nat) : (lenRead i).Silent := by
  refine silent_get.bind fun c => ?_
  cases c.len.read i with
  | some v => exact silent_pure v
  | none => exact silent_throw _

theorem silent_lenWrite (i : Nat) (v : BitVec 4) : (lenWrite i v).Silent := silent_modify fun _ => {}

theorem silent_readLens (base num : Nat) : (readLens base num).Silent := by
  induction num generalizing base with
  | zero => exact silent_pure []
  | succ num ih => exact (silent_lenRead base).bind fun v => (ih (base + 1)).bind fun rest => silent_pure (v :: rest)

theorem silent_buildTree (s : Slot) (ls : List (BitVec 4)) : (buildTree s ls).Silent := by
  have hset (c : Engine) (t : Tree) : c.Silent (c.setTree s t) := by cases s <;> exact {}
  refine ⟨fun c => ?_⟩
  rw [buildTree, Cmd.after_get_bind]
  exact Cmd.after_ite (fun _ => hset c _) fun _ => hset c _

theorem silent_loadFixed : loadFixed.Silent :=
  (silent_buildTree .lt fixedLtLengths).bind fun _ => silent_buildTree .dt fixedDtLengths

theorem silent_fillLens (v : BitVec 4) (i k : Nat) : (fillLens v i k).Silent := by
  induction k generalizing i with
  | zero => exact silent_pure ()
  | succ k ih => exact (silent_lenWrite i v).bind fun _ => ih (i + 1)

theorem silent_readCodeLens (places : List Nat) : (readCodeLens places).Silent := by
  induction places with
  | nil => exact silent_pure ()
  | cons p rest ih => exact (silent_getBits 3).bind fun v => (silent_lenWrite p _).bind fun _ => ih

theorem silent_repeatCode (sym num : Nat) : (repeatCode sym num).Silent := by
  unfold repeatCode
  refine .ite (.ite (silent_raise _) ?_) (.ite ?_ ?_)
  · exact (silent_lenRead _).bind fun v => (silent_getBits 2).bind fun r => silent_pure _
  · exact (silent_getBits 3).bind fun r => silent_pure _
  · exact (silent_getBits 7).bind fun r => silent_pure _

theorem silent_readLengths (total passes num : Nat) : (readLengths total passes num).Silent := by
  induction passes generalizing num with
  | zero => exact silent_pure ()
  | succ k ih =>
    unfold readLengths
    refine .ite ((silent_decodeSymbol .ct).bind fun sym => .ite ?_ ?_) (silent_pure ())
    · exact (silent_lenWrite num _).bind fun _ => ih _
    · exact (silent_repeatCode _ num).bind fun r => (silent_require _ _).bind fun _ =>
        (silent_fillLens _ _ _).bind fun _ => ih _

theorem silent_dynamicHeader : dynamicHeader.Silent :=
  (silent_getBits 5).bind fun _ => (silent_getBits 5).bind fun _ => (silent_getBits 4).bind fun _ =>
    (silent_require _ _).bind fun _ => (silent_fillLens _ _ _).bind fun _ => (silent_readCodeLens _).bind fun _ =>
    (silent_readLens _ _).bind fun _ => (silent_buildTree _ _).bind fun _ => (silent_readLengths _ _ _).bind fun _ =>
    (silent_readLens _ _).bind fun _ => (silent_buildTree _ _).bind fun _ => (silent_readLens _ _).bind fun _ =>
    silent_buildTree _ _

/-! ### The other actions of the sequencer that emit nothing -/

theorem silent_setPState (p : PState) : (setPState p).Silent := silent_modify fun _ => {}

theorem silent_storedHeader : storedHeader.Silent :=
  silent_alignBits.bind fun _ => (silent_getBits 16).bind fun _ => (silent_getBits 16).bind fun _ =>
    (silent_require _ _).bind fun _ => silent_modify fun _ => {}

theorem silent_readHeader : readHeader.Silent := by
  refine (silent_getBits 1).bind fun f => (silent_modify fun _ => {}).bind fun _ => ?_
  refine (silent_getBits 2).bind fun t => (silent_modify fun _ => {}).bind fun _ => ?_
  split
  · exact silent_storedHeader
  · exact silent_loadFixed.bind fun _ => silent_setPState _
  · exact silent_dynamicHeader.bind fun _ => silent_setPState _
  · exact silent_raise _

theorem silent_endOfBlock : endOfBlock.Silent := silent_modify fun _ => {}

theorem silent_matchStep (i : Nat) : (matchStep i).Silent :=
  (silent_getBits _).bind fun _ => (silent_decodeSymbol .dt).bind fun _ => (silent_require _ _).bind fun _ =>
    (silent_getBits _).bind fun _ => silent_get.bind fun _ => (silent_require _ _).bind fun _ => silent_modify fun _ => {}

theorem silent_getBytes4 : getBytes4.Silent :=
  (silent_getBits 8).bind fun _ => (silent_getBits 8).bind fun _ => (silent_getBits 8).bind fun _ =>
    (silent_getBits 8).bind fun _ => silent_pure _

theorem silent_readTrailer : readTrailer.Silent := by
  refine silent_alignBits.bind fun _ => silent_get.bind fun c => .ite ?_ ?_
  · exact silent_getBytes4.bind fun (_, _, _, _) => silent_get.bind fun _ => (silent_require _ _).bind fun _ =>
      silent_setPState _
  · exact silent_getBytes4.bind fun (_, _, _, _) => silent_getBytes4.bind fun _ => silent_get.bind fun _ =>
      (silent_require _ _).bind fun _ => silent_setPState _

/-! ### Reading history, pushing and the checksum -/

theorem silent_memRead (a : Addr) : (memRead a).Silent := ⟨fun c => by rw [memRead_after]; exact {}⟩

theorem silent_ringRead (i : Nat) : (ringRead i).Silent := by
  refine silent_get.bind fun c => ?_
  cases c.ring.read i with
  | some b => exact silent_pure b
  | none => exact silent_throw _

theorem silent_readDest (pos : Word) : (readDest pos).Silent := by
  refine ⟨fun c => ?_⟩
  rw [Cmd.after, readDest_run]
  cases c.ports.readDestQ <;> exact {}

theorem silent_histRead (d : Nat) : (histRead d).Silent :=
  silent_get.bind fun _ => .ite (silent_memRead _) (.ite (silent_ringRead _) (silent_readDest _))

theorem silent_emitPush (b : Byte) : (emitPush b).Silent := by
  refine silent_get.bind fun _ => .ite ⟨fun c => ?_⟩ (silent_pure ())
  rw [Cmd.after, pushByte_run]
  by_cases h : c.ports.pushReady = 0
  · rw [if_pos h]
    exact {}
  · rw [if_neg h]
    exact {}

theorem silent_ckUpdate (b : Byte) : (ckUpdate b).Silent := silent_modify fun _ => {}

theorem silent_reportResult : reportResult.Silent := silent_get.bind fun _ => silent_pure _

/-! ### What `Emit` and the commands that emit do to the counters: 43_window.md R190, R198 -/

/-- From `c` to `c'` no counter that `Covered` reads has fallen, and those with a bound have stayed within it. -/
structure Engine.Grows (c c' : Engine) : Prop where
  latch : c'.latch = c.latch
  dstPos : c.dstPos.toNat ≤ c'.dstPos.toNat
  ringFill : c.ringFill.toNat ≤ c.latch.ringCap.toNat →
    c.ringFill.toNat ≤ c'.ringFill.toNat ∧ c'.ringFill.toNat ≤ c.latch.ringCap.toNat
  outSat : c.outSat.toNat ≤ Config.windowMax → c.outSat.toNat ≤ c'.outSat.toNat ∧ c'.outSat.toNat ≤ Config.windowMax

theorem Engine.Silent.grows {c c' : Engine} (h : c.Silent c') : c.Grows c' where
  latch := h.latch
  dstPos := by rw [h.dstPos]
  ringFill hle := by rw [h.ringFill]; exact ⟨le_rfl, hle⟩
  outSat hle := by rw [h.outSat]; exact ⟨le_rfl, hle⟩

theorem Engine.Grows.refl (c : Engine) : c.Grows c := Engine.Silent.grows {}

theorem Engine.Grows.trans {a b c : Engine} (h : a.Grows b) (h' : b.Grows c) : a.Grows c where
  latch := h'.latch.trans h.latch
  dstPos := h.dstPos.trans h'.dstPos
  ringFill hle := by
    obtain ⟨hab, hb⟩ := h.ringFill hle
    obtain ⟨hbc, hc⟩ := h'.ringFill (by rwa [h.latch])
    exact ⟨hab.trans hbc, by rwa [h.latch] at hc⟩
  outSat hle := by
    obtain ⟨hab, hb⟩ := h.outSat hle
    obtain ⟨hbc, hc⟩ := h'.outSat hb
    exact ⟨hab.trans hbc, hc⟩

/-- A distance covered at a boundary stays covered. -/
theorem Engine.Grows.covered {c c' : Engine} {d : Nat} (h : c.Grows c') (hi : c.Inv) (hcov : c.covered d = true) :
    c'.covered d = true :=
  Engine.covered_mono h.latch h.dstPos (h.ringFill hi.ringFill_le).1 (h.outSat hi.outSat_le).1 hcov

/-- A ring write raises the fill up to the capacity (43_window.md R191). -/
theorem Engine.grows_ringWritten (c : Engine) (b : Byte) : c.Grows (c.ringWritten b) where
  latch := rfl
  dstPos := le_rfl
  ringFill hle := by
    rw [c.toNat_ringWritten_ringFill]
    exact ⟨Nat.le_min.mpr ⟨Nat.le_succ _, hle⟩, Nat.min_le_right _ _⟩
  outSat hle := ⟨le_rfl, hle⟩

theorem Engine.HasRoom.mono {c : Engine} {m n : Nat} (hroom : c.HasRoom n) (h : m ≤ n) : c.HasRoom m :=
  fun hres => (Nat.add_le_add_left h _).trans (hroom hres)

section
variable {c : Engine} (b : Byte)

theorem emitResident_grows (hroom : c.HasRoom 1) : c.Grows ((emitResident b).after c) := by
  rw [Cmd.after, emitResident_run]
  by_cases hres : c.latch.ctrl.dstRes = true
  · have hpos : (c.dstPos + 1).toNat = c.dstPos.toNat + 1 := by
      have := hroom hres
      bv_omega
    rw [if_pos hres]
    by_cases hbacks : c.platform.backs (c.latch.dstBase + c.dstPos) = true
    · rw [if_pos hbacks]
      exact { Engine.Grows.refl c with dstPos := hpos ▸ Nat.le_succ _ }
    · rw [if_neg hbacks]
      exact .refl c
  · rw [if_neg hres]
    exact .refl c

theorem emitRing_grows : c.Grows ((emitRing b).after c) := by
  rw [emitRing, Cmd.after_get_bind]
  exact Cmd.after_ite (fun _ => .refl c) fun _ => c.grows_ringWritten b

theorem emitCount_grows : c.Grows (emitCount.after c) where
  latch := rfl
  dstPos := le_rfl
  ringFill hle := ⟨le_rfl, hle⟩
  outSat hle := by
    have hsat : (emitCount.after c).outSat.toNat = min (c.outSat.toNat + 1) Config.windowMax := c.toNat_counted_outSat 0
    rw [hsat]
    exact ⟨Nat.le_min.mpr ⟨Nat.le_succ _, hle⟩, Nat.min_le_right _ _⟩

/-- `Emit` lets no counter fall where the destination has room, and none has fallen where it waits. -/
theorem emit_grows (hroom : c.HasRoom 1) : c.Grows ((emit b).after c) := by
  refine Cmd.after_bind Engine.Grows .trans _ _ c (emitResident_grows b hroom) fun _ c₁ => ?_
  refine Cmd.after_bind Engine.Grows .trans _ _ c₁ ((silent_emitPush b).after c₁).grows fun _ c₂ => ?_
  refine Cmd.after_bind Engine.Grows .trans _ _ c₂ (emitRing_grows b) fun _ c₃ => ?_
  exact Cmd.after_bind Engine.Grows .trans _ _ c₃ ((silent_ckUpdate b).after c₃).grows fun _ _ => emitCount_grows
end

section
variable {α β : Type} {x : Cmd α} {f : α → Cmd β} {c : Engine}

/-- Behind a piece that emits nothing there is as much room as before it. -/
theorem Cmd.Silent.grows_bind {n : Nat} (hx : x.Silent) (hroom : c.HasRoom n)
    (hf : ∀ (a : α) (c' : Engine), c'.HasRoom n → c'.Grows ((f a).after c')) : c.Grows ((x >>= f).after c) :=
  Cmd.after_bind_of (hx.after c).grows fun a c' hr hg =>
    hg.trans (hf a c' ((Cmd.after_of_ok hr ▸ hx.after c).hasRoom hroom))

/-- A byte is emitted and then nothing more. -/
theorem emit_bind_grows {g : Unit → Cmd β} (b : Byte) (hroom : c.HasRoom 1) (hg : ∀ a, (g a).Silent) :
    c.Grows ((emit b >>= g).after c) :=
  Cmd.after_bind Engine.Grows .trans _ _ c (emit_grows b hroom) fun a c' => ((hg a).after c').grows
end

/-! ### The sequencer: 44_inflate.md R224, R225 -/

section
variable {c : Engine}

theorem storedStep_grows (hroom : c.HasRoom 1) : c.Grows (storedStep.after c) := by
  rw [storedStep, Cmd.after_get_bind]
  refine Cmd.after_ite (fun _ => ?_) fun _ => ?_
  · exact ((silent_endOfBlock.bind fun _ => silent_pure 0).after c).grows
  · refine (silent_getBits 8).grows_bind hroom fun v c₁ hroom => ?_
    exact emit_bind_grows _ hroom fun _ => (silent_modify fun _ => {}).bind fun _ => silent_pure 1

theorem huffStep_grows (hroom : c.HasRoom 1) : c.Grows (huffStep.after c) := by
  refine (silent_decodeSymbol .lt).grows_bind hroom fun sym c₁ hroom => ?_
  refine Cmd.after_ite (fun _ => ?_) fun _ => Cmd.after_ite (fun _ => ?_) fun _ => Cmd.after_ite (fun _ => ?_) fun _ => ?_
  · exact emit_bind_grows _ hroom fun _ => silent_pure 1
  · exact ((silent_endOfBlock.bind fun _ => silent_pure 0).after c₁).grows
  · exact (((silent_matchStep _).bind fun _ => silent_pure 0).after c₁).grows
  · exact .refl c₁

theorem copyStep_grows (hroom : c.HasRoom 1) : c.Grows (copyStep.after c) := by
  rw [copyStep, Cmd.after_get_bind]
  refine Cmd.after_ite (fun _ => ?_) fun _ => ?_
  · exact (((silent_setPState _).bind fun _ => silent_pure 0).after c).grows
  · refine (silent_histRead _).grows_bind hroom fun v c₁ hroom => ?_
    exact emit_bind_grows _ hroom fun _ => (silent_modify fun _ => {}).bind fun _ => silent_pure 1

/-- An action emits one byte at most. -/
theorem stepOnce_grows (hroom : c.HasRoom 1) : c.Grows (stepOnce.after c) := by
  rw [stepOnce, Cmd.after_get_bind]
  cases hp : c.pstate with
  | hdr => exact ((silent_readHeader.bind fun _ => silent_pure 0).after c).grows
  | stored => exact storedStep_grows hroom
  | huff => exact huffStep_grows hroom
  | copy => exact copyStep_grows hroom
  | trailer => exact ((silent_readTrailer.bind fun _ => silent_pure 0).after c).grows
  | idle | done | dataError | checksumError | sourceExhausted => exact .refl c

/-- The loop of `STEP` emits no more than its budget, for which there is room. -/
theorem stepLoop_grows {h : Prop} {ecap passes produced n : Nat} (hn : produced + n = ecap) (hl : c.InLoop h n) :
    c.Grows ((stepLoop ecap passes produced).after c) := by
  induction passes generalizing produced n c with
  | zero => exact .refl c
  | succ k ih =>
    rw [Cmd.after, stepLoop_succ_run]
    by_cases hend : c.pstate = .done ∨ produced = ecap
    · rw [if_pos hend]
      exact .refl c
    · rw [if_neg hend]
      obtain ⟨m, rfl⟩ : ∃ m, n = m + 1 := ⟨n - 1, by omega⟩
      have hgrows := stepOnce_grows (hl.room.mono (Nat.le_add_left 1 m))
      cases hs : stepOnce.run c with
      | ok j c' =>
        obtain ⟨m', hm, hl'⟩ := (stepOnce_wp hl).ok j c' hs
        rw [Cmd.after_of_ok hs] at hgrows
        exact hgrows.trans (ih (by omega) hl')
      | error stop c' =>
        rw [Cmd.after_of_error hs] at hgrows
        cases stop with
        | raise e => exact hgrows.trans (Engine.Silent.grows {})
        | wait | fault | refuse => exact hgrows

/-! ### Every command but `INIT` -/

theorem copyLoop_grows (d : Nat) {n : Nat} (hroom : c.HasRoom n) : c.Grows ((copyLoop d n).after c) := by
  induction n generalizing c with
  | zero => exact .refl c
  | succ n ih =>
    refine (silent_histRead d).grows_bind hroom fun b c₁ hroom => ?_
    refine Cmd.after_bind_of (emit_grows b (hroom.mono (Nat.le_add_left 1 n))) fun _ c₂ hr hg => hg.trans (ih ?_)
    have hemitted : c₂ = c₁.emitted b := (emit_wp (Q := fun _ c' => c' = c₁.emitted b) (E := fun _ _ => True) rfl).ok _ c₂ hr
    exact hemitted ▸ hroom.emitted b
end

/-- A body that lets no counter fall from a boundary on, wherever it ends. -/
structure Cmd.Grows {α : Type} (x : Cmd α) : Prop where
  after : ∀ c : Engine, c.Inv → c.Grows (x.after c)

theorem Cmd.Silent.toGrows {α : Type} {x : Cmd α} (hx : x.Silent) : x.Grows := ⟨fun c _ => (hx.after c).grows⟩

theorem Cmd.Grows.requireStream {α : Type} {x : Cmd α} (hx : x.Grows) : (requireStream >>= fun _ => x).Grows :=
  ⟨fun c hi => after_requireStream_bind (.refl c) (hx.after c hi)⟩

/-- A command leaves what its body leaves, but for `RESULT` and `ERR`; with an illegal operand there is no body. -/
theorem runCmd_silent {i : Instr} {body : Cmd (Option Word)} {s t : State} (ht : runCmd i body s = .next t) :
    (body.after { s.toEngine with err := .none }).Silent t.toEngine ∨ s.toEngine.Silent t.toEngine := by
  by_cases hwf : i.wf = true
  · rcases runCmd_cases i body s hwf with ⟨r, c, hr, he⟩ | ⟨e, c, hr, he⟩ | ⟨w, c, hr, he⟩ | ⟨f, c, hr, he⟩ |
      ⟨f, c, hr, he⟩ <;> rw [he] at ht <;> cases ht
    · exact .inl (Cmd.after_of_ok hr ▸ {})
    · exact .inl (Cmd.after_of_error hr ▸ {})
    · exact .inl (Cmd.after_of_error hr ▸ {})
  · rw [runCmd_illegal i body s (by simpa using hwf)] at ht
    cases ht
    exact .inr {}

theorem runCmd_grows {i : Instr} {body : Cmd (Option Word)} {s t : State} (hb : body.Grows) (hi : s.toEngine.Inv)
    (ht : runCmd i body s = .next t) : s.toEngine.Grows t.toEngine := by
  have haccepted : s.toEngine.Quiet { s.toEngine with err := .none } := {}
  have hstart : s.toEngine.Silent { s.toEngine with err := .none } := {}
  rcases runCmd_silent ht with h | h
  · exact (hstart.grows.trans (hb.after _ (haccepted.inv hi))).trans h.grows
  · exact h.grows

/-- Every command but `INIT` runs a body that lets no counter fall. -/
theorem exec_bodyGrows {i : Instr} (hinit : i ≠ .init) :
    ∃ body : Cmd (Option Word), (∀ s, exec i s = runCmd i body s) ∧ body.Grows := by
  cases i with
  | nop => exact ⟨_, fun _ => rfl, (silent_pure _).toGrows⟩
  | init => exact absurd rfl hinit
  | step cap =>
    refine ⟨_, fun _ => rfl, .requireStream ⟨fun c hi => ?_⟩⟩
    rw [Cmd.after_get_bind]
    have hc : c.Boundary False := ⟨hi, False.elim⟩
    have hloop (halive : c.pstate.failed = false) :=
      stepLoop_grows (passes := c.stepBound (c.budget cap)) (Nat.zero_add _) (hc.inLoop halive (hi.hasRoom_budget cap))
    cases hp : c.pstate with
    | done | dataError | checksumError | sourceExhausted => exact .refl c
    | idle | hdr | stored | huff | copy | trailer => exact hloop (by rw [hp]; rfl)
  | getbits n => exact ⟨_, fun _ => rfl, .requireStream ((silent_getBits _).map _).toGrows⟩
  | getbyte => exact ⟨_, fun _ => rfl, .requireStream ((silent_getBits 8).map _).toGrows⟩
  | align => exact ⟨_, fun _ => rfl, .requireStream (silent_alignBits.bind fun _ => silent_pure _).toGrows⟩
  | ckinit kind =>
    refine ⟨_, fun s => (rfl : execCkinit kind s = _), ?_⟩
    exact Cmd.Silent.toGrows (.bind (silent_modify fun _ => {}) fun _ => silent_reportResult)
  | ckset kind =>
    refine ⟨_, fun s => (rfl : execCkset kind s = _), ?_⟩
    exact Cmd.Silent.toGrows (.bind (silent_modify fun _ => {}) fun _ => silent_reportResult)
  | ckbyte b => exact ⟨_, fun _ => rfl, ((silent_ckUpdate b).bind fun _ => silent_reportResult).toGrows⟩
  | lenw idx len => exact ⟨_, fun _ => rfl, ((silent_lenWrite _ _).bind fun _ => silent_pure _).toGrows⟩
  | lenr idx => exact ⟨_, fun _ => rfl, ((silent_lenRead _).bind fun _ => silent_pure _).toGrows⟩
  | build slot base num =>
    exact ⟨_, fun _ => rfl, ((silent_readLens _ _).bind fun _ => (silent_buildTree _ _).bind fun _ =>
      silent_pure _).toGrows⟩
  | fixed => exact ⟨loadFixed >>= fun _ => pure (some 0), fun _ => rfl, (silent_loadFixed.bind fun _ => silent_pure _).toGrows⟩
  | decode slot => exact ⟨_, fun _ => rfl, .requireStream ((silent_decodeSymbol _).bind fun _ => silent_pure _).toGrows⟩
  | put b =>
    refine ⟨_, fun _ => rfl, .requireStream ⟨fun c hi => ?_⟩⟩
    rw [Cmd.after_get_bind]
    refine after_require_bind (.refl c) fun hok => emit_bind_grows b (fun hres => ?_) fun _ => silent_pure _
    have hne : c.dstPos ≠ c.latch.dstLen := by simpa [hres] using hok
    have hle := hi.dstPos_le hres
    bv_omega
  | get dist =>
    exact ⟨_, fun _ => rfl, .requireStream (silent_get.bind fun _ => (silent_require _ _).bind fun _ =>
      (silent_histRead _).bind fun _ => silent_pure _).toGrows⟩
  | copy len dist =>
    refine ⟨_, fun _ => rfl, .requireStream ⟨fun c hi => ?_⟩⟩
    rw [Cmd.after_get_bind]
    refine after_require_bind (.refl c) fun _ => after_require_bind (.refl c) fun hok => ?_
    have hroom : c.HasRoom len.toNat := hi.hasRoom fun hres => by simpa [hres] using hok
    exact Cmd.after_bind Engine.Grows .trans _ _ c (copyLoop_grows _ hroom) fun _ c' => .refl c'
  | preload b =>
    refine ⟨_, fun _ => rfl, .requireStream ⟨fun c _ => ?_⟩⟩
    rw [Cmd.after_get_bind]
    exact after_require_bind (.refl c) fun _ => c.grows_ringWritten b

/-! ### The statement -/

/-- Settles O37: `Emit` and `PRELOAD` raise the counters within their bounds and no other step of these commands touches them. -/
theorem coverageOnlyGrows : Obligations.CoverageOnlyGrows := by
  intro i s t d hinit hi ht
  obtain ⟨body, hrun, hbody⟩ := exec_bodyGrows hinit
  have hgrows := runCmd_grows hbody hi (hrun s ▸ ht)
  obtain ⟨hfill, hcap⟩ := hgrows.ringFill hi.ringFill_le
  refine ⟨hgrows.covered hi, hgrows.dstPos, (hgrows.outSat hi.outSat_le).1, hfill, ?_⟩
  rwa [hgrows.latch]

end Sys2Proof.Machine
end

section
/-! SUPPORT. The trailer (44_inflate.md R234, 20_memory.md R69): reading bits sees neither `PSTATE` nor `RESULT`, so `STEP` reads
in `TRAILER` what `GETBITS` reads at the end of the final block; four bytes of the bit stream are the bytes of its next 32 bits; and
how the sequencer's loop ends once the trailer is read. At the end the settled statement. -/

namespace Sys2Proof.Machine

/-! ### Reading bits does not see `PSTATE` or `RESULT` -/

/-- `c` with another `PSTATE` and `RESULT`. -/
def Engine.marked (c : Engine) (p : PState) (r : Word) : Engine := { c with pstate := p, result := r }

@[simp] theorem Engine.marked_ports (c : Engine) (p : PState) (r : Word) : (c.marked p r).ports = c.ports := rfl

/-- The end of a piece of a command, with another `PSTATE` and `RESULT`. -/
def markedEnd {α : Type} (p : PState) (r : Word) : EStateM.Result Stop Engine α → EStateM.Result Stop Engine α
  | .ok a c => .ok a (c.marked p r)
  | .error stop c => .error stop (c.marked p r)

section
variable {α : Type} {p : PState} {r : Word} {x : EStateM.Result Stop Engine α} {c' : Engine}

theorem markedEnd_eq_ok {a : α} (h : markedEnd p r x = .ok a c') : ∃ c, x = .ok a c ∧ c' = c.marked p r := by
  cases x with
  | ok b c =>
    cases h
    exact ⟨c, rfl, rfl⟩
  | error stop c => cases h

theorem markedEnd_eq_error {stop : Stop} (h : markedEnd p r x = .error stop c') :
    ∃ c, x = .error stop c ∧ c' = c.marked p r := by
  cases x with
  | ok b c => cases h
  | error stop c =>
    cases h
    exact ⟨c, rfl, rfl⟩
end

/-- A piece that ends the same way whatever `PSTATE` and `RESULT` hold, and leaves them as they are. -/
structure Cmd.Blind {α : Type} (x : Cmd α) : Prop where
  run : ∀ c p r, x.run (c.marked p r) = markedEnd p r (x.run c)

section
variable {α β : Type} {x y : Cmd α} {f : α → Cmd β}

theorem Cmd.Blind.bind (hx : x.Blind) (hf : ∀ a, (f a).Blind) : (x >>= f).Blind where
  run c p r := by
    rw [EStateM.run_bind, EStateM.run_bind, hx.run]
    cases x.run c with
    | ok a c' => exact (hf a).run c' p r
    | error stop c' => rfl

/-- A piece that reads the engine first and goes on with what does not depend on the two registers. -/
theorem Cmd.Blind.get_bind {g : Engine → Cmd α} (hsame : ∀ c p r, g (c.marked p r) = g c) (hg : ∀ c, (g c).Blind) :
    (get >>= g).Blind where
  run c p r := (congrArg (fun z : Cmd α => z.run (c.marked p r)) (hsame c p r)).trans ((hg c).run c p r)

theorem Cmd.Blind.ite {p : Prop} [Decidable p] (hx : x.Blind) (hy : y.Blind) : (if p then x else y).Blind := by
  split
  · exact hx
  · exact hy

theorem blind_pure (a : α) : (pure a : Cmd α).Blind := ⟨fun _ _ _ => rfl⟩

theorem blind_throw (stop : Stop) : (throw stop : Cmd α).Blind := ⟨fun _ _ _ => rfl⟩
end

theorem blind_modify {g : Engine → Engine} (h : ∀ c p r, g (c.marked p r) = (g c).marked p r) :
    (modify g : Cmd PUnit).Blind :=
  ⟨fun c p r => congrArg (EStateM.Result.ok (ε := Stop) PUnit.unit) (h c p r)⟩

theorem blind_memRead (a : Addr) : (memRead a).Blind := by
  refine .get_bind (fun _ _ _ => rfl) fun c => .ite ?_ (blind_throw _)
  cases c.mem.read a.toNat with
  | some b => exact blind_pure b
  | none => exact blind_throw _

theorem blind_residentByte : residentByte.Blind :=
  .get_bind (fun _ _ _ => rfl) fun _ => .ite (blind_throw _) (blind_memRead _)

theorem blind_pullByte : pullByte.Blind where
  run c p r := by
    rw [pullByte_run, pullByte_run, Engine.marked_ports]
    rcases c.ports.pullQ with _ | ⟨b | _, rest⟩
    · rfl
    · cases h : c.ports.pullEnded <;> simp only [h] <;> rfl
    · rfl

theorem blind_fetchSourceByte : fetchSourceByte.Blind := by
  have hcount (b : Byte) :
      (modify (fun c : Engine => { c with srcPos := c.srcPos + 1 }) >>= fun _ => pure b : Cmd Byte).Blind :=
    (blind_modify fun _ _ _ => rfl).bind fun _ => blind_pure b
  exact .get_bind (fun _ _ _ => rfl) fun _ => .ite (blind_pullByte.bind hcount) (blind_residentByte.bind hcount)

theorem blind_getBit : getBit.Blind := by
  refine .bind (.get_bind (fun _ _ _ => rfl) fun _ => .ite ?_ (blind_pure _)) fun _ => ⟨fun _ _ _ => rfl⟩
  exact blind_fetchSourceByte.bind fun _ => blind_modify fun _ _ _ => rfl

theorem blind_getBitsLoop (k i : Nat) (v : Word) : (getBitsLoop k i v).Blind := by
  induction k generalizing i v with
  | zero => exact blind_pure v
  | succ k ih => exact blind_getBit.bind fun _ => ih _ _

theorem blind_getBits (n : Nat) : (getBits n).Blind := blind_getBitsLoop n 0 0

/-! ### Bytes of the bit stream: 20_memory.md R67, R69 -/

/-- Bits taken after others stand above them. -/
theorem getBitsLoop_shift (n i j : Nat) (v w : Word) :
    getBitsLoop n (i + j) (v ||| w <<< i) = (fun z : Word => v ||| z <<< i) <$> getBitsLoop n j w := by
  induction n generalizing j w with
  | zero => simp [getBitsLoop]
  | succ n ih =>
    simp only [getBitsLoop, map_bind, ← ih, BitVec.shiftLeft_or_distrib, ← BitVec.shiftLeft_add, BitVec.or_assoc,
      Nat.add_assoc, Nat.add_comm j i]

theorem getBitsLoop_add (m n i : Nat) (v : Word) :
    getBitsLoop (m + n) i v = getBitsLoop m i v >>= getBitsLoop n (i + m) := by
  induction m generalizing i v with
  | zero => simp [getBitsLoop]
  | succ m ih =>
    rw [Nat.add_right_comm]
    simp only [getBitsLoop, ih, bind_assoc, Nat.add_right_comm i 1 m, Nat.add_assoc]

/-- Taking `m + n` bits is taking `m`, then `n`, the later ones above. -/
theorem getBits_add (m n : Nat) :
    getBits (m + n) = getBits m >>= fun v => (fun z : Word => v ||| z <<< m) <$> getBits n := by
  simp [getBits, getBitsLoop_add, ← getBitsLoop_shift]

/-- The next byte of the bit stream. -/
def nextByte : Cmd Byte := BitVec.setWidth 8 <$> getBits 8

/-- The 8 bits of a byte fill the low bits of the word and no others. -/
theorem getBits_eight : getBits 8 = BitVec.setWidth 32 <$> nextByte := by
  funext c
  rw [nextByte, Functor.map_map]
  change (getBits 8).run c = EStateM.run ((fun v => _) <$> getBits 8) c
  rw [EStateM.run_map]
  cases h : (getBits 8).run c with
  | error e c' => rfl
  | ok v c' =>
    obtain ⟨hlt, -⟩ := (getBits_wp 8 c).ok v c' h
    have hv : v = (v.setWidth 8).setWidth 32 := by bv_omega
    exact congrArg (EStateM.Result.ok (ε := Stop) · c') hv

theorem extractLsb'_byte_or_low (b : Byte) (w : Word) : (b.setWidth 32 ||| w <<< 8).extractLsb' 0 8 = b := by
  refine BitVec.eq_of_getLsbD_eq fun i hi => ?_
  have hlt : i < 32 := by omega
  simp [hi, hlt]

theorem extractLsb'_byte_or_high (b : Byte) (w : Word) {n : Nat} (hn : n + 8 ≤ 24) :
    (b.setWidth 32 ||| w <<< 8).extractLsb' (n + 8) 8 = w.extractLsb' n 8 := by
  refine BitVec.eq_of_getLsbD_eq fun i hi => ?_
  have hlt : n + 8 + i < 32 := by omega
  have hge : ¬ n + 8 + i < 8 := by omega
  have hsub : n + 8 + i - 8 = n + i := by omega
  have hb : b.getLsbD (n + 8 + i) = false := BitVec.getLsbD_of_ge b _ (Nat.le_of_not_lt hge)
  simp only [BitVec.getLsbD_extractLsb', BitVec.getLsbD_or, BitVec.getLsbD_shiftLeft, BitVec.getLsbD_setWidth, hb, hlt, hge,
    hsub, decide_true, decide_false, Bool.not_false, Bool.and_false, Bool.true_and, Bool.false_or]

/-- The lanes of a word put together from bytes, the first lowest. -/
theorem lanesOf_bytes (b0 b1 b2 b3 : Byte) :
    lanesOf (b0.setWidth 32 ||| (b1.setWidth 32 ||| (b2.setWidth 32 ||| b3.setWidth 32 <<< 8) <<< 8) <<< 8) =
      [b0, b1, b2, b3] := by
  have hb3 : (b3.setWidth 32).extractLsb' 0 8 = b3 := by simpa using extractLsb'_byte_or_low b3 0
  have hhigh {b : Byte} {w : Word} := @extractLsb'_byte_or_high b w
  rw [lanesOf, hhigh (n := 0) (by decide), hhigh (n := 8) (by decide), hhigh (n := 16) (by decide),
    hhigh (n := 0) (by decide), hhigh (n := 8) (by decide), hhigh (n := 0) (by decide)]
  simp only [extractLsb'_byte_or_low, hb3]

/-- The bytes of a word in the order the bit stream has them. -/
def bytesOf (v : Word) : Byte × Byte × Byte × Byte :=
  (v.extractLsb' 0 8, v.extractLsb' 8 8, v.extractLsb' 16 8, v.extractLsb' 24 8)

theorem bytesOf_eq {v : Word} {b0 b1 b2 b3 : Byte} (h : lanesOf v = [b0, b1, b2, b3]) : bytesOf v = (b0, b1, b2, b3) := by
  simpa [lanesOf, bytesOf] using h

/-- Four bytes of the bit stream are the bytes of the next 32 bits. -/
theorem getBytes4_eq : getBytes4 = bytesOf <$> getBits 32 := by
  rw [show (32 : Nat) = 8 + (8 + (8 + 8)) from rfl, getBits_add 8, getBits_add 8, getBits_add 8, getBytes4, getBits_eight]
  simp [Functor.map_map, bytesOf_eq (lanesOf_bytes _ _ _ _)]

/-! ### Commands that read bits: 40_bitreader.md R127, 42_huffman.md R179 -/

/-- The body of a command that reads a value from the bit stream behind the check for a stream, and reports it. -/
def readAndReport {α : Type} (x : Cmd α) (g : α → Word) : Cmd (Option Word) := do
  requireStream
  let a ← x
  pure (some (g a))

theorem execGetbits_eq (n : BitVec 6) (s : State) :
    exec (.getbits n) s = runCmd (.getbits n) (readAndReport (getBits n.toNat) id) s := rfl

theorem execDecode_eq (slot : BitVec 2) (s : State) :
    exec (.decode slot) s =
      runCmd (.decode slot) (readAndReport (decodeSymbol (Slot.ofCode slot)) (BitVec.setWidth 32)) s := rfl

/-- How such a command ends: without error only where `x` returned, and with an error only where `x` raised it. -/
theorem runCmd_readAndReport {α : Type} {x : Cmd α} {g : α → Word} {i : Instr} {s t : State} (hwf : i.wf = true)
    (hs : s.pstate ≠ .idle) (hx : x.Quiet) (hframe : ∀ c, BitFrame c (x.after c))
    (ht : runCmd i (readAndReport x g) s = .next t) :
    (t.ok → ∃ a c, x.run { s.toEngine with err := .none } = .ok a c ∧ t = s.complete { c with result := g a }) ∧
    (t.err ≠ .none → ∃ c, x.run { s.toEngine with err := .none } = .error (.raise t.err) c ∧
      t = s.complete (c.takeError t.err)) := by
  have herr (c : Engine) (h : x.after { s.toEngine with err := .none } = c) : c.err = .none := by
    rw [← h, hframe { s.toEngine with err := .none }]
  have hbody : (readAndReport x g).run { s.toEngine with err := .none } =
      match x.run { s.toEngine with err := .none } with
      | .ok a c => .ok (some (g a)) c
      | .error e c => .error e c := by
    rw [readAndReport, EStateM.run_bind, requireStream_run, if_neg (by exact hs)]
    cases h : x.run { s.toEngine with err := .none } <;> simp [h]
  cases hrun : x.run { s.toEngine with err := .none } with
  | ok a c =>
    rw [hrun] at hbody
    rw [runCmd_of_ok hwf hbody] at ht
    cases ht
    exact ⟨fun _ => ⟨a, c, rfl, rfl⟩, fun h => absurd (herr c (Cmd.after_of_ok hrun)) h⟩
  | error stop c =>
    rw [hrun] at hbody
    cases stop with
    | raise e =>
      have hne : e ≠ .none := by
        rintro rfl
        exact absurd ((hx.wp _).raise _ _ hrun).1 (by decide)
      rw [runCmd_of_raise hwf hbody] at ht
      cases ht
      exact ⟨fun h => absurd h.2 hne, fun _ => ⟨c, rfl, rfl⟩⟩
    | wait w =>
      rw [runCmd_of_wait hwf hbody] at ht
      cases ht
      exact ⟨fun h => absurd h.1 (by simp), fun h => absurd (herr c (Cmd.after_of_error hrun)) h⟩
    | fault f => simp [runCmd, hwf, hbody] at ht
    | refuse r => simp [runCmd, hwf, hbody] at ht

theorem exec_align {s : State} (hs : s.pstate ≠ .idle) :
    exec .align s = .next (s.complete { s.toEngine with err := .none, bitacc := 0, bitcnt := 0, result := 0 }) :=
  alignDiscardsTheHeldBits s hs

/-! ### `ReadTrailer`: 44_inflate.md R234 -/

/-- The engine after `Align()` (40_bitreader.md R126). -/
def Engine.aligned (c : Engine) : Engine := { c with bitacc := 0, bitcnt := 0 }

@[simp] theorem Engine.aligned_latch (c : Engine) : c.aligned.latch = c.latch := rfl

theorem alignBits_run (c : Engine) : alignBits.run c = .ok () c.aligned := rfl

/-- The engine once the final block of a stream with a trailer has ended (44_inflate.md R233). -/
def Engine.atTrailer (c : Engine) : Engine := { c with pstate := .trailer }

/-- The value a zlib trailer holds, big-endian (20_memory.md R69). -/
def bigEndian (v : Word) : Word :=
  v.extractLsb' 0 8 ++ v.extractLsb' 8 8 ++ v.extractLsb' 16 8 ++ v.extractLsb' 24 8

theorem littleEndian_bytesOf (v : Word) :
    (bytesOf v).2.2.2 ++ (bytesOf v).2.2.1 ++ (bytesOf v).2.1 ++ (bytesOf v).1 = v :=
  Option.some.inj (wordOfLanes_lanesOf v)

/-- What the comparison of the trailer leaves: the stream is done, or `CHECKSUM` is raised. -/
def comparedEnd (bad : Prop) [Decidable bad] (c : Engine) : EStateM.Result Stop Engine Unit :=
  if bad then .error (.raise .checksum) c else .ok () { c with pstate := .done }

theorem compare_run (kind : CkKind) (v : Word) (c : Engine) :
    (require (!(decide (c.ckKind = kind) && decide (v ≠ c.report))) .checksum >>= fun _ => setPState .done :
      Cmd Unit).run c = comparedEnd (c.ckKind = kind ∧ v ≠ c.report) c := by
  unfold comparedEnd
  by_cases h : c.ckKind = kind ∧ v ≠ c.report
  · simp [h]
  · rw [if_neg h, EStateM.run_bind, require_run, if_pos (by simpa [or_iff_not_imp_left] using h)]
    rfl

section
variable {c c₁ c₂ : Engine} {v w : Word} {stop : Stop}

theorem getBytes4_run_of_ok (h : (getBits 32).run c = .ok v c₁) : getBytes4.run c = .ok (bytesOf v) c₁ := by
  rw [getBytes4_eq, EStateM.run_map, h]
  rfl

theorem getBytes4_run_of_error (h : (getBits 32).run c = .error stop c₁) : getBytes4.run c = .error stop c₁ := by
  rw [getBytes4_eq, EStateM.run_map, h]
  rfl

theorem readTrailer_run_of_zlib (hz : c.latch.ctrl.trailer = .zlib) (h : (getBits 32).run c.aligned = .ok v c₁) :
    readTrailer.run c = comparedEnd (c₁.ckKind = .adler ∧ bigEndian v ≠ c₁.report) c₁ := by
  rw [← compare_run]
  simp only [readTrailer, EStateM.run_bind, alignBits_run, EStateM.run_get, Engine.aligned_latch, hz, if_true,
    getBytes4_run_of_ok h]
  rfl

/-- `ISIZE` is read and not compared. -/
theorem readTrailer_run_of_gzip (hz : c.latch.ctrl.trailer ≠ .zlib) (h : (getBits 32).run c.aligned = .ok v c₁)
    (h' : (getBits 32).run c₁ = .ok w c₂) :
    readTrailer.run c = comparedEnd (c₂.ckKind = .crc ∧ v ≠ c₂.report) c₂ := by
  rw [← compare_run]
  simp only [readTrailer, EStateM.run_bind, alignBits_run, EStateM.run_get, Engine.aligned_latch, hz, if_false,
    getBytes4_run_of_ok h, getBytes4_run_of_ok h', littleEndian_bytesOf]

/-- Whatever the trailer, its first four bytes are read first. -/
theorem readTrailer_run_of_error (h : (getBits 32).run c.aligned = .error stop c₁) :
    readTrailer.run c = .error stop c₁ := by
  by_cases hz : c.latch.ctrl.trailer = .zlib <;>
    simp only [readTrailer, EStateM.run_bind, alignBits_run, EStateM.run_get, Engine.aligned_latch, hz, if_true, if_false,
      getBytes4_run_of_error h]

theorem readTrailer_run_of_gzip_error (hz : c.latch.ctrl.trailer ≠ .zlib) (h : (getBits 32).run c.aligned = .ok v c₁)
    (h' : (getBits 32).run c₁ = .error stop c₂) : readTrailer.run c = .error stop c₂ := by
  simp only [readTrailer, EStateM.run_bind, alignBits_run, EStateM.run_get, Engine.aligned_latch, hz, if_false,
    getBytes4_run_of_ok h, getBytes4_run_of_error h']
end

/-! ### The end of the final block: 44_inflate.md R230, R231, R233 -/

theorem PState.ne_of_active {p q : PState} (hp : p.active = true) (hq : q.active = false) : p ≠ q := by
  rintro rfl
  rw [hp] at hq
  cases hq

/-- `e` is the state at the end of the final block of a stream with a trailer, which `STEP` from `s` reaches in one pass: `c` is the
engine there, before `PSTATE` moves on. -/
structure EndsFinalBlock (s e : State) (c : Engine) : Prop where
  active : s.pstate.active = true
  frame : BitFrame { s.toEngine with err := .none } c
  pass : stepOnce.run { s.toEngine with err := .none } = .ok 0 c.atTrailer
  engine : ({ e.toEngine with err := .none } : Engine) = c.marked s.pstate e.result
  outside : ∀ b, e.complete b = s.complete b

theorem endOfBlock_run_of_final {c : Engine} (hfinal : c.bfinal = true) (htr : c.latch.ctrl.trailer ≠ .none) :
    endOfBlock.run c = .ok () c.atTrailer := by
  simp [endOfBlock, Engine.atTrailer, hfinal, htr]

section
variable {c c' : Engine} (hfinal : c'.bfinal = true) (htr : c'.latch.ctrl.trailer ≠ .none)
include hfinal htr

theorem stepOnce_run_of_storedEnd (hp : c'.pstate = .stored) (hrem : c'.srem = 0) :
    stepOnce.run c' = .ok 0 c'.atTrailer := by
  rw [stepOnce_run, hp]
  simp only [storedStep, EStateM.run_bind, EStateM.run_get, hrem, if_true, endOfBlock_run_of_final hfinal htr]
  rfl

theorem stepOnce_run_of_endSymbol {sym : BitVec 9} (hp : c.pstate = .huff) (hdec : (decodeSymbol .lt).run c = .ok sym c')
    (hsym : sym.toNat = 256) : stepOnce.run c = .ok 0 c'.atTrailer := by
  rw [stepOnce_run, hp]
  simp only [huffStep, EStateM.run_bind, hdec, hsym, lt_irrefl, if_false, if_true, endOfBlock_run_of_final hfinal htr]
  rfl
end

section
variable {s e : State} (hfinal : s.bfinal = true) (htr : s.latch.ctrl.trailer ≠ .none)
include hfinal htr

theorem endsFinalBlock_stored (hp : s.pstate = .stored) (hrem : s.srem = 0) :
    EndsFinalBlock s s { s.toEngine with err := .none } where
  active := hp ▸ rfl
  frame := rfl
  pass := stepOnce_run_of_storedEnd hfinal htr hp hrem
  engine := rfl
  outside _ := rfl

theorem endsFinalBlock_huff (hp : s.pstate = .huff) (hdec : exec (.decode 0) s = .next e) (hok : e.ok)
    (hsym : e.result.toNat = 256) : ∃ c, EndsFinalBlock s e c := by
  rw [execDecode_eq] at hdec
  obtain ⟨sym, c, hrun, rfl⟩ := (runCmd_readAndReport rfl (by rw [hp]; decide) (quiet_decodeSymbol _) (decodeSymbol_frame _)
    hdec).1 hok
  have hframe : BitFrame { s.toEngine with err := .none } c := Cmd.after_of_ok hrun ▸ decodeSymbol_frame .lt _
  have hwide : (sym.setWidth 32).toNat = 256 := hsym
  refine ⟨c, hp ▸ rfl, hframe, stepOnce_run_of_endSymbol ?_ ?_ hp hrun ?_, ?_, fun _ => rfl⟩
  · rwa [hframe]
  · rwa [hframe]
  · bv_omega
  · rw [hframe]; rfl

/-- Both ends of a final block the statement speaks of. -/
theorem exists_endsFinalBlock (h : (s.pstate = .stored ∧ s.srem = 0 ∧ e = s) ∨
      (s.pstate = .huff ∧ exec (.decode 0) s = .next e ∧ e.ok ∧ e.result.toNat = 256)) : ∃ c, EndsFinalBlock s e c := by
  rcases h with ⟨hp, hrem, rfl⟩ | ⟨hp, hdec, hok, hsym⟩
  · exact ⟨_, endsFinalBlock_stored hfinal htr hp hrem⟩
  · exact endsFinalBlock_huff hfinal htr hp hdec hok hsym
end

/-! ### The loop of `STEP` from the end of the final block: 44_inflate.md R224, R235 -/

theorem exec_step_of_loop {s : State} {cap : BitVec 26} {r : Word} {c : Engine} (hs : s.pstate.active = true)
    (h : (stepLoop (s.toEngine.budget cap) (s.toEngine.stepBound (s.toEngine.budget cap)) 0).run
      { s.toEngine with err := .none } = .ok (some r) c) :
    exec (.step cap) s = .next (s.complete { c with result := r }) := by
  have hstart : ({ s.toEngine with err := .none } : Engine).pstate.active = true := hs
  refine runCmd_of_ok (i := .step cap) (r := some r) rfl ?_
  change (stepLoop (Engine.budget { s.toEngine with err := .none } cap) (Engine.stepBound { s.toEngine with err := .none }
    (Engine.budget { s.toEngine with err := .none } cap)) 0).run _ = _ at h
  generalize ({ s.toEngine with err := .none } : Engine) = start at hstart h ⊢
  cases hp : start.pstate with
  | hdr | stored | huff | copy | trailer => simp [hp, h]
  | idle | done | dataError | checksumError | sourceExhausted =>
    rw [hp] at hstart
    cases hstart

section
variable {s e : State} {cap : BitVec 26} {c d : Engine}

/-- The first pass of the loop ends the block and the second reads the trailer; what that ends in decides how `STEP` ends. -/
theorem EndsFinalBlock.stepLoop_run (hc : EndsFinalBlock s e c) (hcap : s.toEngine.budget cap ≠ 0) :
    ∃ k, (stepLoop (s.toEngine.budget cap) (s.toEngine.stepBound (s.toEngine.budget cap)) 0).run
        { s.toEngine with err := .none } =
      match readTrailer.run c.atTrailer with
      | .ok () d => (stepLoop (s.toEngine.budget cap) (k + 1) 0).run d
      | .error (.raise err) d => .ok (some 0) (d.takeStepError err err.terminal 0)
      | .error stop d => .error stop d := by
  obtain ⟨k, hbound⟩ : ∃ k, s.toEngine.stepBound (s.toEngine.budget cap) = k + 1 + 1 + 1 :=
    ⟨2 * (s.toEngine.bitsLeft + s.toEngine.budget cap) - 1, by rw [Engine.stepBound]; omega⟩
  have hdone : s.pstate ≠ .done := PState.ne_of_active hc.active rfl
  have htrailer : c.atTrailer.pstate = .trailer := rfl
  refine ⟨k, ?_⟩
  rw [hbound, stepLoop_succ_run, if_neg (by simp [hdone, hcap.symm]), hc.pass]
  simp only [stepLoop_succ_run _ (_ + 1)]
  rw [if_neg (by simp [htrailer, hcap.symm]), stepOnce_run, htrailer]
  simp only [EStateM.run_bind]
  cases readTrailer.run c.atTrailer with
  | ok u d => rfl
  | error stop d => cases stop <;> rfl

theorem EndsFinalBlock.exec_step_of_raise {err : Err} (hc : EndsFinalBlock s e c) (hcap : s.toEngine.budget cap ≠ 0)
    (hread : readTrailer.run c.atTrailer = .error (.raise err) d) :
    exec (.step cap) s = .next (s.complete (d.takeStepError err err.terminal 0)) := by
  obtain ⟨k, hloop⟩ := hc.stepLoop_run hcap
  rw [hread] at hloop
  exact exec_step_of_loop hc.active hloop

theorem EndsFinalBlock.exec_step_of_compared {bad : Prop} [Decidable bad] (hc : EndsFinalBlock s e c)
    (hcap : s.toEngine.budget cap ≠ 0) (hread : readTrailer.run c.atTrailer = comparedEnd bad d) :
    exec (.step cap) s = .next
      (if bad then s.complete (d.takeStepError .checksum .checksumError 0) else s.complete (d.marked .done 0)) := by
  by_cases hb : bad
  · rw [comparedEnd, if_pos hb] at hread
    rw [if_pos hb]
    exact hc.exec_step_of_raise hcap hread
  · rw [comparedEnd, if_neg hb] at hread
    rw [if_neg hb]
    obtain ⟨k, hloop⟩ := hc.stepLoop_run hcap
    simp only [hread, stepLoop_succ_run, true_or, if_true] at hloop
    exact exec_step_of_loop hc.active hloop
end

/-! ### `GETBITS` at the end of the final block -/

/-- `GETBITS 32` from an engine that differs from `d` in `PSTATE` and `RESULT` reads what `d` reads; `s` is any state with what
lies outside the engine. -/
theorem exec_getbits_of_marked {s x y : State} {d : Engine} {p : PState} {r : Word}
    (hstart : ({ x.toEngine with err := .none } : Engine) = d.marked p r) (hx : x.pstate ≠ .idle)
    (hout : ∀ b, x.complete b = s.complete b) (hy : exec (.getbits 32) x = .next y) :
    (y.ok → ∃ d', (getBits 32).run d = .ok y.result d' ∧ y = s.complete (d'.marked p y.result)) ∧
    (y.err = .srcExhausted → ∃ d', (getBits 32).run d = .error (.raise .srcExhausted) d' ∧
      y = s.complete ((d'.marked p r).takeError .srcExhausted)) := by
  rw [execGetbits_eq] at hy
  obtain ⟨hret, hraise⟩ := runCmd_readAndReport (by rfl) hx (quiet_getBits _) (getBits_frame _) hy
  have hrun : (getBits 32).run { x.toEngine with err := .none } = markedEnd p r ((getBits 32).run d) := by
    rw [hstart]
    exact (blind_getBits 32).run d p r
  constructor
  · intro hok
    obtain ⟨v, b, hb, rfl⟩ := hret hok
    obtain ⟨d', hd, rfl⟩ := markedEnd_eq_ok (hrun.symm.trans hb)
    exact ⟨d', hd, hout _⟩
  · intro herr
    obtain ⟨b, hb, hyb⟩ := hraise (by rw [herr]; decide)
    rw [herr] at hb hyb
    obtain ⟨d', hd, rfl⟩ := markedEnd_eq_error (hrun.symm.trans hb)
    exact ⟨d', hd, hyb.trans (hout _)⟩

theorem BitFrame.checksum {c c' : Engine} (h : BitFrame c c') : c'.ckKind = c.ckKind ∧ c'.ckState = c.ckState := by
  rw [h]
  exact ⟨rfl, rfl⟩

section
variable {s e a t u : State} {c d : Engine}

/-- The first `GETBITS 32` reads what `STEP` reads in `TRAILER`, once realigned. -/
theorem EndsFinalBlock.exec_getbits (hc : EndsFinalBlock s e c) (halign : exec .align e = .next a)
    (ht : exec (.getbits 32) a = .next t) :
    (t.ok → ∃ d, (getBits 32).run c.atTrailer.aligned = .ok t.result d ∧ t = s.complete (d.marked s.pstate t.result)) ∧
    (t.err = .srcExhausted → ∃ d, (getBits 32).run c.atTrailer.aligned = .error (.raise .srcExhausted) d ∧
      t = s.complete ((d.marked s.pstate 0).takeError .srcExhausted)) := by
  have hp : e.pstate = s.pstate := (congrArg Engine.pstate hc.engine :)
  have hs : e.pstate ≠ .idle := hp ▸ PState.ne_of_active hc.active rfl
  have ha : _ = a := Host.Outcome.next.inj ((exec_align hs).symm.trans halign)
  have hstart : ({ a.toEngine with err := .none } : Engine) = c.atTrailer.aligned.marked s.pstate 0 := by
    rw [← ha]
    exact (congrArg (fun b : Engine => { b with bitacc := 0, bitcnt := 0, result := 0 }) hc.engine :)
  refine exec_getbits_of_marked hstart ?_ (fun b => ?_) ht
  · rwa [← ha]
  · rw [← ha]
    exact hc.outside b

/-- A `GETBITS 32` after one that completed reads on from there. -/
theorem EndsFinalBlock.exec_next_getbits (hc : EndsFinalBlock s e c) (hok : t.ok)
    (ht : t = s.complete (d.marked s.pstate t.result)) (hu : exec (.getbits 32) t = .next u) :
    (u.ok → ∃ d', (getBits 32).run d = .ok u.result d' ∧ u = s.complete (d'.marked s.pstate u.result)) ∧
    (u.err = .srcExhausted → ∃ d', (getBits 32).run d = .error (.raise .srcExhausted) d' ∧
      u = s.complete ((d'.marked s.pstate t.result).takeError .srcExhausted)) := by
  have hstart : ({ t.toEngine with err := .none } : Engine) = d.marked s.pstate t.result := by
    rw [← hok.2]
    exact congrArg State.toEngine ht
  refine exec_getbits_of_marked hstart ?_ (fun b => ?_) hu
  · rw [ht]
    exact PState.ne_of_active hc.active rfl
  · rw [ht]
    rfl

theorem EndsFinalBlock.trailer (hc : EndsFinalBlock s e c) : c.atTrailer.latch.ctrl.trailer = s.latch.ctrl.trailer := by
  change c.latch.ctrl.trailer = _
  rw [hc.frame]

/-- Reading the trailer leaves the checksum as it was when `STEP` began. -/
theorem EndsFinalBlock.mismatch_iff (hc : EndsFinalBlock s e c) (hd : BitFrame c.atTrailer.aligned d) (k : CkKind) (v : Word) :
    (d.ckKind = k ∧ v ≠ d.report) ↔ (s.ckKind = k ∧ v ≠ k.report s.ckState) := by
  obtain ⟨hkind, hstate⟩ := hc.frame.checksum
  obtain ⟨hkind', hstate'⟩ := hd.checksum
  rw [Engine.report, hkind'.trans hkind, hstate'.trans hstate]
  exact and_congr_right fun h => h ▸ Iff.rfl
end

/-! ### The statement -/

/-- Settles O45: `STEP` reads in `TRAILER` what `GETBITS` reads after `ALIGN`, and compares only under the matching kind. -/
theorem stepChecksTheTrailer : Obligations.StepChecksTheTrailer := by
  intro s e a t cap hend hfinal hcap halign ht done failed ended
  refine ⟨fun htr herr => ?_, fun htr hok => ?_, fun htr hok u hu => ?_⟩
  · obtain ⟨c, hc⟩ := exists_endsFinalBlock hfinal htr hend
    obtain ⟨d, hrun, rfl⟩ := (hc.exec_getbits halign ht).2 herr
    rw [hc.exec_step_of_raise hcap (readTrailer_run_of_error hrun)]
    rfl
  · obtain ⟨c, hc⟩ := exists_endsFinalBlock hfinal (by rw [htr]; decide) hend
    obtain ⟨d, hrun, hteq⟩ := (hc.exec_getbits halign ht).1 hok
    have hframe : BitFrame _ d := Cmd.after_of_ok hrun ▸ getBits_frame 32 _
    rw [hc.exec_step_of_compared hcap (readTrailer_run_of_zlib (hc.trailer.trans htr) hrun)]
    exact congrArg Host.Outcome.next
      (if_congr (hc.mismatch_iff hframe .adler _) (by rw [hteq]; rfl) (by rw [hteq]; rfl))
  · obtain ⟨c, hc⟩ := exists_endsFinalBlock hfinal (by rw [htr]; decide) hend
    obtain ⟨d, hrun, hteq⟩ := (hc.exec_getbits halign ht).1 hok
    obtain ⟨hret, hraise⟩ := hc.exec_next_getbits hok hteq hu
    have hgzip : c.atTrailer.latch.ctrl.trailer ≠ .zlib := by rw [hc.trailer, htr]; decide
    refine ⟨fun herr => ?_, fun huok => ?_⟩
    · obtain ⟨d', hrun', rfl⟩ := hraise herr
      rw [hc.exec_step_of_raise hcap (readTrailer_run_of_gzip_error hgzip hrun hrun')]
      rfl
    · obtain ⟨d', hrun', hueq⟩ := hret huok
      have hframe : BitFrame _ d := Cmd.after_of_ok hrun ▸ getBits_frame 32 _
      have hframe' : BitFrame d d' := Cmd.after_of_ok hrun' ▸ getBits_frame 32 _
      rw [hc.exec_step_of_compared hcap (readTrailer_run_of_gzip hgzip hrun hrun')]
      exact congrArg Host.Outcome.next
        (if_congr (hc.mismatch_iff (hframe.trans hframe') .crc _) (by rw [hueq]; rfl) (by rw [hueq]; rfl))

end Sys2Proof.Machine
end

section
/-! SUPPORT. Commands that only report `ILLEGAL_CMD` (60_exceptions.md R271, R274): a word that decoding rejects, and a `PRELOAD`
refused for its state (43_window.md R203). At the end the settled statement. -/

namespace Sys2Proof.Machine

theorem cmdWrite_decoded {s : State} {w : Word} {i : Instr} (hbusy : s.busy = false) (hw : decode w = .ok i) :
    cmdWrite w s = exec i s.accept := by
  simp [cmdWrite, hbusy, hw]

/-- `PRELOAD` in a stream, where R203 refuses it, ends as a rejected word does: the ring write is not reached. -/
theorem exec_preload_of_refused {s : State} {b : Byte} (hs : s.pstate ≠ .idle)
    (href : s.latch.ringCap = 0 ∨ s.pstate ≠ .hdr ∨ s.outSat ≠ 0) :
    exec (.preload b) s = .next (s.complete (({ s.toEngine with err := .none } : Engine).takeError .illegalCmd)) := by
  have haccept : ¬((¬s.latch.ringCap = 0#16 ∧ s.pstate = .hdr) ∧ s.outSat = 0#16) := by
    rintro ⟨⟨hcap, hhdr⟩, hsat⟩
    obtain hcap' | hhdr' | hsat' := href
    · exact hcap hcap'
    · exact hhdr' hhdr
    · exact hsat' hsat
  exact runCmd_of_raise (i := .preload b) rfl (by simp [hs, haccept])

/-! ### The statement -/

/-- Settles O7: a rejected word and a refused `PRELOAD` end, once accepted, in the same `State.illegal`. -/
theorem illegalCommandOnlyReports : Obligations.IllegalCommandOnlyReports := by
  refine ⟨fun s w r rest hbusy hq hw => ?_, fun s w b rest hbusy hq hw hs href => ?_⟩
  · exact (step_cmdAction hq).trans (cmdWrite_rejected hbusy hw)
  · calc step s = cmdWrite w { s with hostq := rest } := step_cmdAction hq
      _ = exec (.preload b) ({ s with hostq := rest } : State).accept := cmdWrite_decoded hbusy hw
      _ = _ := exec_preload_of_refused hs href

end Sys2Proof.Machine
end

section
/-! SUPPORT. The encoder and the decoder against each other (30_encoding.md R91 to R96): the row of an encoded command, and the
operand bits of a word put together again from its fields. At the end the settled statements. -/

namespace Sys2Proof

/-! ### Fields of concatenations -/

theorem extractLsb'_append_low {m n : Nat} (x : BitVec m) (y : BitVec n) : (x ++ y).extractLsb' 0 n = y := by
  rw [BitVec.extractLsb'_append_eq_of_add_le (Nat.zero_add n).le, BitVec.extractLsb'_eq_self]

theorem extractLsb'_append_high {m n : Nat} (x : BitVec m) (y : BitVec n) : (x ++ y).extractLsb' n m = x := by
  rw [BitVec.extractLsb'_append_eq_of_le le_rfl, Nat.sub_self, BitVec.extractLsb'_eq_self]

/-- A field inside the high part of a concatenation. -/
theorem extractLsb'_append_above {m n : Nat} (x : BitVec m) (y : BitVec n) (start len : Nat) :
    (x ++ y).extractLsb' (n + start) len = x.extractLsb' start len := by
  rw [BitVec.extractLsb'_append_eq_of_le (Nat.le_add_right n start), Nat.add_sub_cancel_left]

/-- Two neighbouring fields of a word are one field. -/
theorem append_extractLsb' (w : Word) {start len m : Nat} {x : BitVec m} (hx : x = w.extractLsb' (start + len) m) :
    x ++ w.extractLsb' start len = w.extractLsb' start (m + len) := by
  subst hx
  rw [BitVec.extractLsb'_append_extractLsb'_eq_extractLsb' rfl]

/-! ### The row of an encoded command: 30_encoding.md R92, R94 -/

/-- How many low bits the format of a command gives to operands (30_encoding.md R92). -/
def Instr.operandWidth : Instr → Nat
  | .nop | .init | .getbyte | .align | .fixed => 0
  | .step _ => 26
  | .getbits _ => 6
  | .ckinit _ | .ckset _ | .decode _ => 2
  | .ckbyte _ | .put _ | .preload _ => 8
  | .lenw _ _ => 13
  | .lenr _ => 9
  | .build _ _ _ => 20
  | .get _ => 16
  | .copy _ _ => 25

theorem Instr.operandWidth_le (i : Instr) : i.operandWidth ≤ 26 := by cases i <;> simp [Instr.operandWidth]

/-- A field inside the operand bits stands at the same place of the word. -/
theorem extractLsb'_encode (i : Instr) {start len : Nat} (h : start + len ≤ 26) :
    (encode i).extractLsb' start len = i.operandBits.extractLsb' start len :=
  BitVec.extractLsb'_append_eq_of_add_le h

theorem opcodeRow_encode (i : Instr) : opcodeRow (encode i) = some (i.operandWidth, i) := by
  have hopc : opcodeOf (encode i) = i.opcode := Laws.Opcode.opcodeOf_append _ _
  have hfield {start len : Nat} := extractLsb'_encode i (start := start) (len := len)
  unfold opcodeRow
  rw [hopc]
  cases i with
  | nop | init | getbyte | align | fixed => rfl
  | step cap => exact congrArg (fun v => some (26, Instr.step v)) ((hfield (by decide)).trans (BitVec.extractLsb'_eq_self))
  | getbits n => exact congrArg (fun v => some (6, Instr.getbits v)) ((hfield (by decide)).trans (extractLsb'_append_low _ _))
  | ckinit k => exact congrArg (fun v => some (2, Instr.ckinit v)) ((hfield (by decide)).trans (extractLsb'_append_low _ _))
  | ckset k => exact congrArg (fun v => some (2, Instr.ckset v)) ((hfield (by decide)).trans (extractLsb'_append_low _ _))
  | ckbyte b => exact congrArg (fun v => some (8, Instr.ckbyte v)) ((hfield (by decide)).trans (extractLsb'_append_low _ _))
  | lenw idx len =>
    exact congrArg₂ (fun v v' => some (13, Instr.lenw v v')) ((hfield (by decide)).trans (extractLsb'_append_low _ _))
      ((hfield (by decide)).trans ((extractLsb'_append_above (0#13 ++ len) idx 0 4).trans (extractLsb'_append_low _ _)))
  | lenr idx => exact congrArg (fun v => some (9, Instr.lenr v)) ((hfield (by decide)).trans (extractLsb'_append_low _ _))
  | build slot base num =>
    have hnum := (hfield (start := 0) (len := 9) (by decide)).trans (extractLsb'_append_low _ _)
    have hbase := (hfield (start := 9) (len := 9) (by decide)).trans
      ((extractLsb'_append_above (0#6 ++ slot ++ base) num 0 9).trans (extractLsb'_append_low _ _))
    have hslot := (hfield (start := 18) (len := 2) (by decide)).trans
      ((extractLsb'_append_above (0#6 ++ slot ++ base) num 9 2).trans
        ((extractLsb'_append_above (0#6 ++ slot) base 0 2).trans (extractLsb'_append_low _ _)))
    simp only [hnum, hbase, hslot, Instr.opcode]
    rfl
  | decode slot => exact congrArg (fun v => some (2, Instr.decode v)) ((hfield (by decide)).trans (extractLsb'_append_low _ _))
  | put b => exact congrArg (fun v => some (8, Instr.put v)) ((hfield (by decide)).trans (extractLsb'_append_low _ _))
  | get d => exact congrArg (fun v => some (16, Instr.get v)) ((hfield (by decide)).trans (extractLsb'_append_low _ _))
  | copy len d =>
    exact congrArg₂ (fun v v' => some (25, Instr.copy v v'))
      ((hfield (by decide)).trans ((extractLsb'_append_above (0#1 ++ len) d 0 9).trans (extractLsb'_append_low _ _)))
      ((hfield (by decide)).trans (extractLsb'_append_low _ _))
  | preload b => exact congrArg (fun v => some (8, Instr.preload v)) ((hfield (by decide)).trans (extractLsb'_append_low _ _))

theorem mustBeZeroBits_encode (i : Instr) : mustBeZeroBits i.operandWidth (encode i) = 0 := by
  refine (extractLsb'_encode i (Nat.add_sub_cancel' i.operandWidth_le).le).trans ?_
  cases i with
  | nop | init | getbyte | align | fixed => rfl
  | step => exact BitVec.of_length_zero
  | getbits | ckinit | ckset | ckbyte | lenr | decode | put | get | preload => exact extractLsb'_append_high _ _
  | lenw idx len => exact (extractLsb'_append_above (0#13 ++ len) idx 4 13).trans (extractLsb'_append_high _ _)
  | build slot base num =>
    exact (extractLsb'_append_above (0#6 ++ slot ++ base) num 11 6).trans
      ((extractLsb'_append_above (0#6 ++ slot) base 2 6).trans (extractLsb'_append_high _ _))
  | copy len d => exact (extractLsb'_append_above (0#1 ++ len) d 9 1).trans (extractLsb'_append_high _ _)

/-! ### A word from its row: 30_encoding.md R91, R96 -/

theorem opcode_append_operandBits (w : Word) : opcodeOf w ++ w.extractLsb' 0 26 = w :=
  (append_extractLsb' w (start := 0) (len := 26) rfl).trans BitVec.extractLsb'_eq_self

/-- The row of a word has the word's opcode, and its fields with the must-be-zero bits at 0 are all the operand bits. -/
theorem fields_of_opcodeRow {w : Word} {k : Nat} {i : Instr} (hrow : opcodeRow w = some (k, i))
    (hzero : mustBeZeroBits k w = 0) : i.opcode = opcodeOf w ∧ i.operandBits = w.extractLsb' 0 26 := by
  unfold opcodeRow at hrow
  split at hrow <;> cases hrow <;> rename_i hopc <;> refine ⟨(BitVec.eq_of_toNat_eq hopc).symm, ?_⟩
  case h_1 | h_2 | h_5 | h_6 | h_13 => exact hzero.symm
  case h_3 => rfl
  case h_10 | h_17 => exact append_extractLsb' w (append_extractLsb' w hzero.symm)
  case h_12 => exact append_extractLsb' w (append_extractLsb' w (append_extractLsb' w hzero.symm))
  all_goals exact append_extractLsb' w hzero.symm

theorem decode_eq_ok {w : Word} {i : Instr} (h : decode w = .ok i) :
    i.wf = true ∧ ∃ k, opcodeRow w = some (k, i) ∧ mustBeZeroBits k w = 0 := by
  unfold decode at h
  split at h
  · cases h
  next k j hrow =>
  split at h
  next hzero =>
    split at h <;> cases h
    next hwf => exact ⟨hwf, k, hrow, hzero⟩
  · cases h

/-- Only a word without a row is rejected for its opcode. -/
theorem decode_eq_reservedOpcode_iff (w : Word) : decode w = .error .reservedOpcode ↔ opcodeRow w = none := by
  unfold decode
  cases opcodeRow w with
  | none => simp
  | some row =>
    obtain ⟨k, i⟩ := row
    dsimp only
    split
    · split <;> simp
    · simp

/-! ### The statements -/

/-- Settles O2: the encoded word selects the command's own row, with the must-be-zero bits at 0. -/
theorem decodeInvertsEncode : Obligations.DecodeInvertsEncode := by
  intro i hwf
  simp only [decode, opcodeRow_encode, mustBeZeroBits_encode, hwf, if_true]

/-- Settles O3: the opcode and the fields of the word's row make up the whole word. -/
theorem encodeInvertsDecode : Obligations.EncodeInvertsDecode := by
  intro w i h
  obtain ⟨hwf, k, hrow, hzero⟩ := decode_eq_ok h
  obtain ⟨hopc, hbits⟩ := fields_of_opcodeRow hrow hzero
  refine ⟨hwf, ?_⟩
  rw [encode, hopc, hbits]
  exact opcode_append_operandBits w

/-- Settles O4: the rows of the opcode table leave out just the reserved ranges. -/
theorem reservedOpcodesAreRejected : Obligations.ReservedOpcodesAreRejected := by
  intro w
  have hlt := (opcodeOf w).isLt
  rw [decode_eq_reservedOpcode_iff, opcodeRow]
  change _ ↔ (0x03 ≤ (opcodeOf w).toNat ∧ (opcodeOf w).toNat ≤ 0x07) ∨ (0x0B ≤ (opcodeOf w).toNat ∧ (opcodeOf w).toNat ≤ 0x0F) ∨
    (0x13 ≤ (opcodeOf w).toNat ∧ (opcodeOf w).toNat ≤ 0x17) ∨ (0x1D ≤ (opcodeOf w).toNat ∧ (opcodeOf w).toNat ≤ 0x1F) ∨
    0x24 ≤ (opcodeOf w).toNat
  split
  case h_19 =>
    simp only [imp_false, true_iff] at *
    omega
  all_goals
    simp only [reduceCtorEq, false_iff]
    omega

/-- Settles O1: each word selects its row of the table, and the fields are read off it. -/
theorem knownWordsDecode : Obligations.KnownWordsDecode := by
  unfold Obligations.KnownWordsDecode
  decide

end Sys2Proof
end

section
/-! SUPPORT. The body that each command runs under `runCmd`, and the commands and host actions whose whole next state is read off their
definitions: `NOP`, `INIT`, `LENW`, `LENR`, a command without a stream, a register write, the reset input. At the end the settled
statements. -/

namespace Sys2Proof.Machine

/-! ### The body of a command -/

/-- The sequencer behind the check for a stream (44_inflate.md R224). -/
def stepBody (cap : BitVec 26) : Cmd (Option Word) := do
  let c ← get
  match c.pstate with
  | .done => pure (some 0)
  | .dataError | .checksumError | .sourceExhausted => raise c.streamErr
  | .idle | .hdr | .stored | .huff | .copy | .trailer => stepLoop (c.budget cap) (c.stepBound (c.budget cap)) 0

/-- `PUT` behind the check for a stream (43_window.md R200). -/
def putBody (b : Byte) : Cmd (Option Word) := do
  let c ← get
  require (!(c.latch.ctrl.dstRes && decide (c.dstPos = c.latch.dstLen))) .destFull
  emit b
  pure (some 0)

/-- `GET` behind the check for a stream (43_window.md R201). -/
def getBody (d : Nat) : Cmd (Option Word) := do
  let c ← get
  require (c.covered d) .invalidDistance
  let b ← histRead d
  pure (some (b.setWidth 32))

/-- `COPY` behind the check for a stream (43_window.md R202). -/
def copyBody (len : BitVec 9) (d : Nat) : Cmd (Option Word) := do
  let c ← get
  require (c.covered d) .invalidDistance
  require (!(c.latch.ctrl.dstRes && decide (c.room < len.toNat))) .destFull
  copyLoop d len.toNat
  pure (some (len.setWidth 32))

/-- `PRELOAD` behind the check for a stream (43_window.md R203). -/
def preloadBody (b : Byte) : Cmd (Option Word) := do
  let c ← get
  require (decide (c.latch.ringCap ≠ 0) && decide (c.pstate = .hdr) && decide (c.outSat = 0)) .illegalCmd
  ringWrite b
  pure (some 0)

/-- `INIT` (44_inflate.md R222). -/
def initBody : Cmd (Option Word) := do
  let c ← get
  if c.hostConfig.overlaps then throw (.refuse .overlappingSlices)
  else
    set c.startStream
    pure (some 0)

/-- A checksum command that loads the accumulator (41_checksum.md R144, R145). -/
def loadBody (k : CkKind) (st : Engine → Word) : Cmd (Option Word) := do
  modify fun c => { c with ckKind := k, ckState := st c }
  reportResult

/-- What a command does behind the check of its operands. -/
def bodyOf : Instr → Cmd (Option Word)
  | .nop => pure none
  | .init => initBody
  | .step cap => requireStream >>= fun _ => stepBody cap
  | .getbits n => requireStream >>= fun _ => some <$> getBits n.toNat
  | .getbyte => requireStream >>= fun _ => some <$> getBits 8
  | .align => requireStream >>= fun _ => alignBits >>= fun _ => pure (some 0)
  | .ckinit kind => loadBody (CkKind.ofCode kind) fun _ => (CkKind.ofCode kind).seed
  | .ckset kind => loadBody (CkKind.ofCode kind) fun c => if kind = 0 then 0 else c.data
  | .ckbyte b => ckUpdate b >>= fun _ => reportResult
  | .lenw idx len => lenWrite idx.toNat len >>= fun _ => pure (some 0)
  | .lenr idx => lenRead idx.toNat >>= fun v => pure (some (v.setWidth 32))
  | .build slot base num => readLens base.toNat num.toNat >>= fun ls => buildTree (Slot.ofCode slot) ls >>= fun _ => pure (some 0)
  | .fixed => loadFixed >>= fun _ => pure (some 0)
  | .decode slot => requireStream >>= fun _ => decodeSymbol (Slot.ofCode slot) >>= fun sym => pure (some (sym.setWidth 32))
  | .put b => requireStream >>= fun _ => putBody b
  | .get dist => requireStream >>= fun _ => getBody dist.toNat
  | .copy len dist => requireStream >>= fun _ => copyBody len dist.toNat
  | .preload b => requireStream >>= fun _ => preloadBody b

theorem exec_eq_runCmd (i : Instr) (s : State) : exec i s = runCmd i (bodyOf i) s := by cases i <;> rfl

/-- A command that needs a stream begins with the check for one. -/
theorem bodyOf_needsStream {i : Instr} (h : needsStream i = true) : ∃ x, bodyOf i = requireStream >>= fun _ => x := by
  cases i with
  | nop | init | ckinit | ckset | ckbyte | lenw | lenr | build | fixed => cases h
  | step | getbits | getbyte | align | decode | put | get | copy | preload => exact ⟨_, rfl⟩

/-- The check for a stream is passed in every state but `IDLE`. -/
theorem requireStream_bind_run {α : Type} {x : Cmd α} {c : Engine} (h : c.pstate ≠ .idle) :
    (requireStream >>= fun _ => x).run c = x.run c := by
  rw [EStateM.run_bind, requireStream_run, if_neg h]

/-- The engine a command starts from: acceptance has cleared `ERR` (60_exceptions.md R271). -/
def Engine.cleared (c : Engine) : Engine := { c with err := .none }

@[simp] theorem Engine.cleared_err (c : Engine) : c.cleared.err = .none := rfl
@[simp] theorem Engine.cleared_pstate (c : Engine) : c.cleared.pstate = c.pstate := rfl
@[simp] theorem Engine.cleared_streamErr (c : Engine) : c.cleared.streamErr = c.streamErr := rfl
@[simp] theorem Engine.cleared_latch (c : Engine) : c.cleared.latch = c.latch := rfl
@[simp] theorem Engine.cleared_platform (c : Engine) : c.cleared.platform = c.platform := rfl
@[simp] theorem Engine.cleared_ports (c : Engine) : c.cleared.ports = c.ports := rfl
@[simp] theorem Engine.cleared_mem (c : Engine) : c.cleared.mem = c.mem := rfl
@[simp] theorem Engine.cleared_len (c : Engine) : c.cleared.len = c.len := rfl
@[simp] theorem Engine.cleared_dstPos (c : Engine) : c.cleared.dstPos = c.dstPos := rfl
@[simp] theorem Engine.cleared_bitcnt (c : Engine) : c.cleared.bitcnt = c.bitcnt := rfl
@[simp] theorem Engine.cleared_hostConfig (c : Engine) : c.cleared.hostConfig = c.hostConfig := rfl
@[simp] theorem Engine.cleared_tree (c : Engine) (sl : Slot) : c.cleared.tree sl = c.tree sl := c.tree_with_err .none sl
@[simp] theorem Engine.cleared_covered (c : Engine) (d : Nat) : c.cleared.covered d = c.covered d := rfl
@[simp] theorem Engine.cleared_room (c : Engine) : c.cleared.room = c.room := rfl
@[simp] theorem Engine.cleared_budget (c : Engine) (cap : BitVec 26) : c.cleared.budget cap = c.budget cap := rfl

section
variable {i : Instr} {s : State} {c : Engine}

theorem exec_of_ok {r : Option Word} (h : i.wf = true) (hb : (bodyOf i).run s.toEngine.cleared = .ok r c) :
    exec i s = .next (s.complete { c with result := r.getD c.result }) :=
  (exec_eq_runCmd i s).trans (runCmd_of_ok h hb)

theorem exec_of_raise {e : Err} (h : i.wf = true)
    (hb : (bodyOf i).run s.toEngine.cleared = .error (.raise e) c) :
    exec i s = .next (s.complete (c.takeError e)) :=
  (exec_eq_runCmd i s).trans (runCmd_of_raise h hb)

theorem exec_of_wait {w : Waiting} (h : i.wf = true)
    (hb : (bodyOf i).run s.toEngine.cleared = .error (.wait w) c) :
    exec i s = .next (s.suspend i s.toEngine.cleared c w) :=
  (exec_eq_runCmd i s).trans (runCmd_of_wait h hb)

theorem exec_of_fault {f : Fault} (h : i.wf = true)
    (hb : (bodyOf i).run s.toEngine.cleared = .error (.fault f) c) : exec i s = .fault f := by
  change (bodyOf i).run { s.toEngine with err := .none } = _ at hb
  rw [exec_eq_runCmd]
  simp [runCmd, h, hb]

theorem exec_of_refuse {r : Refusal} (h : i.wf = true)
    (hb : (bodyOf i).run s.toEngine.cleared = .error (.refuse r) c) : exec i s = .refused r := by
  change (bodyOf i).run { s.toEngine with err := .none } = _ at hb
  rw [exec_eq_runCmd]
  simp [runCmd, h, hb]

theorem exec_of_illegal (h : i.wf = false) :
    exec i s = .next (s.complete (s.toEngine.cleared.takeError .illegalCmd)) :=
  (exec_eq_runCmd i s).trans (runCmd_illegal i _ s h)
end

/-- How a command that leads to a next state ended. -/
theorem exec_eq_next {i : Instr} {s t : State} (h : exec i s = .next t) :
    (i.wf = false ∧ t = s.complete (s.toEngine.cleared.takeError .illegalCmd)) ∨
    (i.wf = true ∧
      ((∃ r c, (bodyOf i).run s.toEngine.cleared = .ok r c ∧
          t = s.complete { c with result := r.getD c.result }) ∨
        (∃ e c, (bodyOf i).run s.toEngine.cleared = .error (.raise e) c ∧ t = s.complete (c.takeError e)) ∨
        (∃ w c, (bodyOf i).run s.toEngine.cleared = .error (.wait w) c ∧
          t = s.suspend i s.toEngine.cleared c w))) := by
  cases hwf : i.wf with
  | false => exact .inl ⟨rfl, (Host.Outcome.next.inj ((exec_of_illegal hwf).symm.trans h)).symm⟩
  | true =>
    refine .inr ⟨rfl, ?_⟩
    rw [exec_eq_runCmd] at h
    rcases runCmd_cases i (bodyOf i) s hwf with ⟨r, c, hr, he⟩ | ⟨e, c, hr, he⟩ | ⟨w, c, hr, he⟩ | ⟨f, c, hr, he⟩ |
      ⟨f, c, hr, he⟩ <;> rw [he] at h <;> cases h
    · exact .inl ⟨r, c, hr, rfl⟩
    · exact .inr (.inl ⟨e, c, hr, rfl⟩)
    · exact .inr (.inr ⟨w, c, hr, rfl⟩)

/-- How a command that faults ended. -/
theorem exec_eq_fault {i : Instr} {s : State} {f : Fault} (h : exec i s = .fault f) :
    ∃ c, (bodyOf i).run s.toEngine.cleared = .error (.fault f) c := by
  cases hwf : i.wf with
  | false => rw [exec_of_illegal hwf] at h; cases h
  | true =>
    rw [exec_eq_runCmd] at h
    rcases runCmd_cases i (bodyOf i) s hwf with ⟨r, c, hr, he⟩ | ⟨e, c, hr, he⟩ | ⟨w, c, hr, he⟩ | ⟨f, c, hr, he⟩ |
      ⟨f, c, hr, he⟩ <;> rw [he] at h <;> cases h
    exact ⟨c, hr⟩

/-! ### Overlapping slices: 20_memory.md R64 -/

/-- Two slices overlap just where an address lies in both: seen from it, the slice that begins later begins inside the other. -/
theorem slicesOverlap_iff (b₁ l₁ b₂ l₂ : Word) :
    slicesOverlap b₁ l₁ b₂ l₂ = true ↔ ∃ a : Addr, (a - b₁).toNat < l₁.toNat ∧ (a - b₂).toNat < l₂.toNat := by
  simp only [slicesOverlap, inSlice, Bool.or_eq_true, Bool.and_eq_true, decide_eq_true_eq]
  constructor
  · rintro (⟨hin, hne⟩ | ⟨hin, hne⟩)
    · exact ⟨b₂, hin, by bv_omega⟩
    · exact ⟨b₁, by bv_omega, hin⟩
  · rintro ⟨a, h₁, h₂⟩
    rcases Nat.le_total (a - b₂).toNat (a - b₁).toNat with hle | hle
    · exact .inl ⟨by bv_omega, by bv_omega⟩
    · exact .inr ⟨by bv_omega, by bv_omega⟩

theorem initBody_run (c : Engine) :
    initBody.run c =
      if c.hostConfig.overlaps then .error (.refuse .overlappingSlices) c else .ok (some 0) c.startStream := by
  simp only [initBody, EStateM.run_bind, EStateM.run_get]
  split <;> rfl

theorem exec_init_of_apart {s : State} (h : s.toEngine.hostConfig.overlaps = false) :
    exec .init s = .next (s.complete { s.toEngine.cleared.startStream with result := 0 }) := by
  refine exec_of_ok (i := .init) (r := some 0) rfl ((initBody_run _).trans ?_)
  rw [Engine.cleared_hostConfig, h]
  rfl

theorem exec_init_of_overlap {s : State} (h : s.toEngine.hostConfig.overlaps = true) :
    exec .init s = .refused .overlappingSlices := by
  refine exec_of_refuse (i := .init) (c := s.toEngine.cleared) rfl ((initBody_run _).trans ?_)
  rw [Engine.cleared_hostConfig, h]
  rfl

/-! ### `CTRL`: 10_state.md R22 -/

/-- A word is made up of the fields of `CTRL`. -/
theorem eq_of_ctrl_fields {v w : Word} (hlow : v.extractLsb' 0 2 = w.extractLsb' 0 2) (hmid : v.extractLsb' 2 4 = w.extractLsb' 2 4)
    (hhigh : v.extractLsb' 6 2 = w.extractLsb' 6 2) (hrest : v.extractLsb' 8 24 = w.extractLsb' 8 24) : v = w := by
  have hsplit (x : Word) : x.extractLsb' 8 24 ++ x.extractLsb' 6 2 ++ x.extractLsb' 2 4 ++ x.extractLsb' 0 2 = x := by
    have h₁ := append_extractLsb' x (start := 6) (len := 2) (x := x.extractLsb' 8 24) rfl
    have h₂ := append_extractLsb' x (start := 2) (len := 4) h₁
    have h₃ := append_extractLsb' x (start := 0) (len := 2) h₂
    exact h₃.trans BitVec.extractLsb'_eq_self
  rw [← hsplit v, hlow, hmid, hhigh, hrest, hsplit w]

theorem CkKind.code_ofCode (v : BitVec 2) : (CkKind.ofCode v).code = if v = 3 then 0 else v := by
  revert v; decide

theorem Trailer.code_ofCode (v : BitVec 2) : (Trailer.ofCode v).code = if v = 3 then 0 else v := by
  revert v; decide

theorem CkKind.ofCode_eq (v : BitVec 2) : CkKind.ofCode v = if v = 1 then .adler else if v = 2 then .crc else .none := by
  revert v; decide

theorem Trailer.ofCode_eq (v : BitVec 2) : Trailer.ofCode v = if v = 1 then .zlib else if v = 2 then .gzip else .none := by
  revert v; decide

/-- `CTRL` reads back its low byte, with a reserved field value as 0. -/
theorem toWord_ofWord (v : Word) :
    (Ctrl.ofWord v).toWord = (v &&& 0x3C#32) ||| (if v.extractLsb' 0 2 = 3 then 0#32 else v &&& 0x03#32)
      ||| (if v.extractLsb' 6 2 = 3 then 0#32 else v &&& 0xC0#32) := by
  obtain ⟨hkind, hres, hpush, hrdest, hpull, htrailer, hzero⟩ := (Ctrl.ofWord v).toWord_fields
  have hfield (k : Word) (start len : Nat) (p : Prop) [Decidable p] :
      (if p then 0#32 else v &&& k).extractLsb' start len =
        if p then 0 else v.extractLsb' start len &&& k.extractLsb' start len := by
    split
    · simp
    · exact BitVec.extractLsb'_and
  have hmask₂ (x : BitVec 2) : x &&& 3#2 = x := BitVec.and_allOnes
  have hmask₄ (x : BitVec 4) : x &&& 15#4 = x := BitVec.and_allOnes
  refine eq_of_ctrl_fields ?_ ?_ ?_ ?_ <;> simp only [BitVec.extractLsb'_or, hfield, BitVec.extractLsb'_and]
  · rw [hkind.trans (CkKind.code_ofCode _)]
    simp [hmask₂]
  · refine BitVec.eq_of_getLsbD_eq fun i hi => ?_
    have hbit : (Ctrl.ofWord v).toWord.getLsbD (2 + i) = v.getLsbD (2 + i) := by
      interval_cases i
      exacts [hres, hpush, hrdest, hpull]
    simp [hi, hbit, hmask₄]
  · rw [htrailer.trans (Trailer.code_ofCode _)]
    simp [hmask₂]
  · simp [hzero]

/-! ### A register write: 10_state.md R22 to R25 -/

theorem step_wrReg_rw {s : State} {off : Nat} {v : Word} {rest : List HostAction} (hbusy : s.busy = false)
    (hq : s.hostq = wrReg s.platform.mmioBase off v :: rest) (hoff : off < 2 ^ 32) (hcmd : off ≠ cmdOffset) :
    step s = .next { s with hostq := rest, toEngine := s.toEngine.regWrite off v } := by
  rw [step_wrReg hq hoff, if_neg hcmd, hbusy]
  rfl

/-! ### The statements -/

/-- Settles O6: taking the action from the list and accepting the command come before `exec`. -/
theorem stepRunsTheDecodedCommand : Obligations.StepRunsTheDecodedCommand := by
  intro s w i rest hbusy hq hw
  exact (step_cmdAction hq).trans (cmdWrite_decoded hbusy hw)

/-- Settles O9: the write stores through `Engine.regWrite`; only `CTRL` and `RING_CAP` do not store the value as it is. -/
theorem registerWritesReadBack : Obligations.RegisterWritesReadBack := by
  intro s v rest hbusy
  have hwrite {off : Nat} (hq : s.hostq = wrReg s.platform.mmioBase off v :: rest) := step_wrReg_rw (off := off) hbusy hq
  refine ⟨fun hq => ?_, fun hq => ?_, fun hq => ?_, fun hq => ?_, fun hq => ?_, fun hq => ?_, fun hq => ?_⟩
  · refine ⟨_, _, hwrite hq (by decide) (by decide), rfl, toWord_ofWord v, ?_⟩
    rw [Ctrl.ofWord, CkKind.ofCode_eq, Trailer.ofCode_eq]
  · refine ⟨_, _, hwrite hq (by decide) (by decide), rfl, ?_⟩
    have hle : min v.toNat Config.ringMax < 2 ^ 16 := (Nat.min_le_right _ _).trans_lt (by decide)
    exact (BitVec.toNat_setWidth_of_le (by decide)).trans ((BitVec.toNat_ofNat _ _).trans (Nat.mod_eq_of_lt hle))
  all_goals exact ⟨_, hwrite hq (by decide) (by decide), rfl, rfl⟩

/-- Settles O11: the reset state of the core, with memory, the platform and the host's side carried over. -/
theorem resetInputRestoresResetValues : Obligations.ResetInputRestoresResetValues := by
  intro s rest hq
  refine ⟨_, step_act s _ rest hq, ?_, rfl, rfl⟩
  simp only [State.statusWord, State.hwReset_toEngine, State.hwReset_busy, State.hwReset_drop, Engine.hwReset_streamErr,
    Engine.hwReset_ckKind, Engine.hwReset_bitcnt, Engine.hwReset_ct, Engine.hwReset_dt, Engine.hwReset_lt,
    Engine.hwReset_btype, Engine.hwReset_bfinal, Engine.hwReset_err, Engine.hwReset_pstate]
  decide

/-- Settles O12: the body of `NOP` does nothing. -/
theorem nopOnlyClearsErr : Obligations.NopOnlyClearsErr := fun s => exec_of_ok (i := .nop) (s := s) (r := none) rfl rfl

/-- Settles O13: where the slices do not overlap `INIT` is `Engine.startStream`. -/
theorem initStartsAStream : Obligations.InitStartsAStream := by
  intro s h
  rw [exec_init_of_apart h]
  cases hk : s.ctrl.ckKind <;> simp [State.complete, Engine.startStream, Engine.cleared, Engine.hostConfig, CkKind.seed, hk]

/-- Settles O14: `INIT` stops just where the two slices in use share an address. -/
theorem initRefusesSharedSlices : Obligations.InitRefusesSharedSlices := by
  intro s
  rw [← slicesOverlap_iff]
  have hover : s.toEngine.hostConfig.overlaps = true ↔
      s.ctrl.srcPull = false ∧ s.ctrl.dstRes = true ∧ slicesOverlap s.srcBase s.srcLen s.dstBase s.dstLen = true := by
    simp [Latch.overlaps, Engine.hostConfig, and_assoc]
  rw [← hover]
  cases h : s.toEngine.hostConfig.overlaps with
  | true => simp [exec_init_of_overlap h]
  | false => simp [exec_init_of_apart h]

/-- Settles O24: the check for a stream comes first in each of these commands, and raises. -/
theorem commandsWithoutAStreamReportIt : Obligations.CommandsWithoutAStreamReportIt := by
  intro i s hneeds hwf hs
  obtain ⟨x, hx⟩ := bodyOf_needsStream hneeds
  exact exec_of_raise (e := .noStream) (c := s.toEngine.cleared) hwf (by simp [hx, hs])

/-- Settles O25: one entry of a sparse store is written, or read. -/
theorem lenwWritesAndLenrReadsOneEntry : Obligations.LenwWritesAndLenrReadsOneEntry := by
  intro s idx hidx
  have hwf (len : BitVec 4) : (Instr.lenw idx len).wf = true := decide_eq_true hidx
  have hwf' : (Instr.lenr idx).wf = true := decide_eq_true hidx
  refine ⟨fun len => ⟨s.len.write idx.toNat len, ?_, fun k => Cells.read_write _ _ k len⟩, fun v hv => ?_, fun hv => ?_⟩
  · exact exec_of_ok (i := .lenw idx len) (r := some 0) (hwf len) (by rfl)
  · exact exec_of_ok (i := .lenr idx) (s := s) (r := some (v.setWidth 32)) (c := s.toEngine.cleared) hwf'
      (by simp [bodyOf, lenRead_run, hv])
  · exact exec_of_fault (i := .lenr idx) (c := s.toEngine.cleared) hwf' (by simp [bodyOf, lenRead_run, hv])

/-- Settles O53: at reset no counter has moved, every store is empty and no slot is valid. -/
theorem invariantsHoldAtReset : Obligations.InvariantsHoldAtReset := by
  have hinv : Engine.reset.Inv := by constructor <;> simp [Engine.reset, Latch.zero, Ctrl.zero, PState.failed]
  refine ⟨⟨by simp [State.reset], fun _ => hinv, by simp [State.reset]⟩, rfl, ?_, ?_⟩
  · constructor
    · rintro (_ | _ | _) ⟨⟩
    · rintro (_ | _ | _) ⟨⟩
    · intro d h₁ (h₂ : d ≤ 0)
      omega
    · rintro ⟨⟩
  · rintro ⟨⟩

end Sys2Proof.Machine
end

section
/-! SUPPORT. Adler-32 with one reduction at the end (41_checksum.md R149), and the host programs of the checksums (30_encoding.md
R100): a command with the `wait` after it, and a run of `CKBYTE` commands. At the end the settled statements. -/

namespace Sys2Proof.Machine

/-! ### Adler-32: 41_checksum.md R143, R149 -/

/-- The exact sums after one more byte. -/
def adlerSums (p : Nat × Nat) (b : Byte) : Nat × Nat := (p.1 + b.toNat, p.2 + (p.1 + b.toNat))

/-- The running state holds the exact sums reduced modulo 65521. -/
def AdlerHolds (st : Word) (p : Nat × Nat) : Prop := st.toNat % 65536 = p.1 % 65521 ∧ st.toNat / 65536 = p.2 % 65521

theorem AdlerHolds.update {st : Word} {p : Nat × Nat} (h : AdlerHolds st p) (b : Byte) :
    AdlerHolds (CkKind.adler.update st b) (adlerSums p b) := by
  obtain ⟨hlow, hhigh⟩ := h
  obtain ⟨hlow', hhigh'⟩ := adlerUpdate_sums st b
  rw [hlow] at hlow' hhigh'
  rw [hhigh] at hhigh'
  exact ⟨hlow'.trans (by simp [adlerSums]), hhigh'.trans (by simp [adlerSums])⟩

theorem AdlerHolds.foldl {st : Word} {p : Nat × Nat} (h : AdlerHolds st p) (bs : List Byte) :
    AdlerHolds (bs.foldl CkKind.adler.update st) (bs.foldl adlerSums p) := by
  induction bs generalizing st p with
  | nil => exact h
  | cons b bs ih => exact ih (h.update b)

/-- The first byte reduces whatever state was loaded. -/
theorem adlerHolds_first (st : Word) (b : Byte) :
    AdlerHolds (CkKind.adler.update st b) (adlerSums (st.toNat % 65536, st.toNat / 65536) b) := by
  obtain ⟨hlow, hhigh⟩ := adlerUpdate_sums st b
  exact ⟨hlow, hhigh.trans (by simp [adlerSums])⟩

theorem AdlerHolds.eq {st : Word} {p : Nat × Nat} (h : AdlerHolds st p) :
    st = BitVec.ofNat 16 (p.2 % 65521) ++ BitVec.ofNat 16 (p.1 % 65521) := by
  obtain ⟨hlow, hhigh⟩ := h
  obtain ⟨hlow', hhigh'⟩ := toNat_halves (BitVec.ofNat 16 (p.2 % 65521)) (BitVec.ofNat 16 (p.1 % 65521))
  have hsmall (n : Nat) : (BitVec.ofNat 16 (n % 65521)).toNat = n % 65521 := by
    rw [BitVec.toNat_ofNat]
    omega
  rw [hsmall] at hlow' hhigh'
  refine BitVec.eq_of_toNat_eq ?_
  omega

/-! ### Host programs: 30_encoding.md R100, 70_reset_and_hazards.md R310 -/

theorem coreRun_succ_of_step {M : Host.Core} {s t : M.State} (h : M.step s = .next t) (k : Nat) :
    M.run (k + 1) s = M.run k t := by
  rw [Host.Core.run, h]

theorem run_succ_of_step {s t : State} (h : step s = .next t) (k : Nat) :
    Sys2Proof.core.run (k + 1) s = Sys2Proof.core.run k t :=
  coreRun_succ_of_step (M := Sys2Proof.core) h k

theorem step_issue {s : State} {i : Instr} {rest : List HostAction} (hwf : i.wf = true) (hbusy : s.busy = false)
    (hq : s.hostq = issue s.platform.mmioBase i :: rest) : step s = exec i ({ s with hostq := rest } : State).accept := by
  rw [step_wrReg (off := cmdOffset) hq (by decide), if_pos rfl]
  exact cmdWrite_decoded hbusy (decodeInvertsEncode i hwf)

theorem step_wait_over {s : State} {rest : List HostAction} (hbusy : s.busy = false) (hq : s.hostq = .wait :: rest) :
    step s = .next { s with hostq := rest } :=
  (step_act s _ rest hq).trans (hostWait_over { s with hostq := rest } hbusy)

theorem exec_outside {i : Instr} {s t : State} (h : exec i s = .next t) :
    t.drop = s.drop ∧ t.hostq = s.hostq ∧ t.busReads = s.busReads :=
  runCmd_outside (exec_eq_runCmd i s ▸ h)

/-- A command that completes at once, and the `wait` after it, are two steps. -/
theorem run_issueAndWait {s t : State} {i : Instr} {rest : List HostAction} (hwf : i.wf = true) (hbusy : s.busy = false)
    (hq : s.hostq = issueAndWait s.platform.mmioBase i ++ rest)
    (hexec : exec i ({ s with hostq := .wait :: rest } : State).accept = .next t) (ht : t.busy = false) (k : Nat) :
    Sys2Proof.core.run (k + 2) s = Sys2Proof.core.run k { t with hostq := rest } := by
  obtain ⟨-, htq, -⟩ := exec_outside hexec
  exact (run_succ_of_step ((step_issue hwf hbusy hq).trans hexec) (k + 1)).trans (run_succ_of_step (step_wait_over ht htq) k)

/-- Between two commands of a checksum program: what the program's next actions and the final read depend on. -/
structure Accumulating (s : State) (k : CkKind) (st : Word) (acts : List HostAction) (reads : List (List Byte)) (base : Addr) :
    Prop where
  busy : s.busy = false
  kind : s.ckKind = k
  state : s.ckState = st
  hostq : s.hostq = acts
  reads : s.busReads = reads
  base : s.platform.mmioBase = base

section
variable {s : State} {k : CkKind} {st : Word} {rest : List HostAction} {reads : List (List Byte)} {base : Addr}

/-- The `CKBYTE` commands of a program accumulate its bytes, two steps for each. -/
theorem run_ckbytes (bs : List Byte) (n : Nat)
    (h : Accumulating s k st (bs.flatMap (fun b => issueAndWait base (.ckbyte b)) ++ rest) reads base) :
    ∃ t, Sys2Proof.core.run (2 * bs.length + n) s = Sys2Proof.core.run n t ∧
      Accumulating t k (bs.foldl k.update st) rest reads base := by
  induction bs generalizing s st with
  | nil =>
    refine ⟨s, ?_, h⟩
    rw [List.length_nil, Nat.mul_zero, Nat.zero_add]
  | cons b bs ih =>
    obtain ⟨hbusy, rfl, rfl, hq, rfl, rfl⟩ := h
    rw [List.flatMap_cons, List.append_assoc] at hq
    have hrun := run_issueAndWait rfl hbusy hq (exec_ckbyte b _) rfl (2 * bs.length + n)
    rw [List.length_cons, show 2 * (bs.length + 1) + n = 2 * bs.length + n + 2 by omega]
    refine (ih ?_).imp fun t ht => ⟨hrun.trans ht.1, ht.2⟩
    exact ⟨rfl, rfl, rfl, rfl, rfl, rfl⟩

/-- A checksum program up to its final read: the seed goes to `DATA`, `CKSET` loads it, and the bytes are accumulated. -/
theorem run_checksum {kind : BitVec 2} {seed : Word} {bs : List Byte} {last : HostAction} (hkind : kind ≠ 0)
    (hwf : (Instr.ckset kind).wf = true) (hbusy : s.busy = false)
    (hq : s.hostq = wrReg s.platform.mmioBase 0x1C seed :: issueAndWait s.platform.mmioBase (.ckset kind)
      ++ bs.flatMap (fun b => issueAndWait s.platform.mmioBase (.ckbyte b)) ++ [last]) :
    ∃ t, Sys2Proof.core.run (2 * bs.length + 4) s = Sys2Proof.core.run 1 t ∧
      Accumulating t (CkKind.ofCode kind) (bs.foldl (CkKind.ofCode kind).update seed) [last] s.busReads
        s.platform.mmioBase := by
  rw [List.cons_append, List.cons_append, List.append_assoc] at hq
  obtain ⟨s₁, hdata, hbusy₁, hq₁, hseed, hreads, hbase⟩ : ∃ s₁ : State, step s = .next s₁ ∧ s₁.busy = false ∧
      s₁.hostq = issueAndWait s₁.platform.mmioBase (.ckset kind)
        ++ (bs.flatMap (fun b => issueAndWait s.platform.mmioBase (.ckbyte b)) ++ [last]) ∧
      s₁.data = seed ∧ s₁.busReads = s.busReads ∧ s₁.platform.mmioBase = s.platform.mmioBase :=
    ⟨_, step_wrReg_rw hbusy hq (by decide) (by decide), hbusy, rfl, rfl, rfl, rfl⟩
  have hload : (if kind = 0 then 0 else s₁.data) = seed := (if_neg hkind).trans hseed
  have hset := run_issueAndWait hwf hbusy₁ hq₁ (exec_ckset hwf _) rfl (2 * bs.length + 1)
  refine (run_ckbytes bs 1 ?_).imp fun t ht => ⟨(run_succ_of_step hdata _).trans (hset.trans ht.1), ht.2⟩
  exact ⟨rfl, rfl, hload, rfl, hreads, hbase⟩

/-- The final read of a checksum program. -/
theorem Accumulating.run_read {off : Nat} (h : Accumulating s k st [rdReg base off] reads base) (hoff : off < 2 ^ 32) :
    ∃ t, Sys2Proof.core.run 1 s = .next t ∧ t.hostq = [] ∧ t.busy = false ∧ t.busReads = reads ++ [lanesOf (s.regRead off)] ∧
      t.toEngine = s.toEngine := by
  obtain ⟨hbusy, rfl, rfl, hq, rfl, rfl⟩ := h
  refine ⟨_, run_succ_of_step (step_read hq) 0, rfl, hbusy, ?_, rfl⟩
  rw [State.busLanes_word, Platform.offset_base_add _ hoff]
end

/-! ### The statements -/

/-- Settles O18: reducing commutes with adding, and the first byte already leaves both sums reduced. -/
theorem adlerDeferredReductionAgrees : Obligations.AdlerDeferredReductionAgrees := by
  intro st b bs
  exact ((adlerHolds_first st b).foldl bs).eq

/-- Settles O20: the program loads the seed, accumulates byte by byte and reads the register at the end. -/
theorem pseudoChecksumsReturnTheState : Obligations.PseudoChecksumsReturnTheState := by
  intro s seed bs hbusy
  refine ⟨fun hq => ?_, fun hq => ?_⟩
  · obtain ⟨t, hrun, hacc⟩ := run_checksum (kind := 1) (by decide) rfl hbusy hq
    obtain ⟨u, hread, huq, hubusy, hureads, -⟩ := hacc.run_read (by decide)
    refine ⟨u, hrun.trans hread, huq, hubusy, hureads.trans ?_⟩
    have hreport : t.regRead 0x2C = t.ckKind.report t.ckState := rfl
    rw [hreport, hacc.kind, hacc.state]
    rfl
  · obtain ⟨t, hrun, hacc⟩ := run_checksum (kind := 2) (by decide) rfl hbusy hq
    obtain ⟨u, hread, huq, hubusy, hureads, hu⟩ := hacc.run_read (by decide)
    have hreport : u.regRead 0x2C = u.ckKind.report u.ckState := rfl
    have hstate : t.regRead 0x30 = t.ckState := rfl
    refine ⟨u, hrun.trans hread, huq, hubusy, ?_, ?_⟩
    · rw [hureads, hstate, hacc.state]
      rfl
    · rw [hreport, hu, hacc.kind, hacc.state]
      rfl

end Sys2Proof.Machine
end

section
/-! SUPPORT. The fixed trees (42_huffman.md R167 to R169): how often a length stands among the first symbols, which gives the counts
and the place of every symbol. At the end the settled statement. -/

namespace Sys2Proof.Machine

/-- How often length `l` stands among the first `i` fixed literal/length lengths: 144 of 8, 112 of 9, 24 of 7, 8 of 8. -/
theorem lengthCount_take_fixedLt (i l : Nat) :
    lengthCount (fixedLtLengths.take i) l =
      (if l = 8 then min i 144 + min (i - 280) 8 else 0) + (if l = 9 then min (i - 144) 112 else 0)
        + (if l = 7 then min (i - 256) 24 else 0) := by
  simp only [fixedLtLengths, lengthCount, List.take_append, List.take_replicate, List.countP_append, List.countP_replicate,
    List.length_append, List.length_replicate, decide_eq_true_eq]
  have h8 : ((8 : BitVec 4).toNat = l) = (l = 8) := propext eq_comm
  have h9 : ((9 : BitVec 4).toNat = l) = (l = 9) := propext eq_comm
  have h7 : ((7 : BitVec 4).toNat = l) = (l = 7) := propext eq_comm
  simp only [h7, h8, h9]
  split_ifs <;> omega

theorem lengthCount_take_fixedDt (i l : Nat) :
    lengthCount (fixedDtLengths.take i) l = if l = 5 then min i 30 else 0 := by
  have h5 : ((5 : BitVec 4).toNat = l) = (l = 5) := propext eq_comm
  simp only [fixedDtLengths, lengthCount, List.take_replicate, List.countP_replicate, decide_eq_true_eq, h5]

theorem length_fixedLt : fixedLtLengths.length = 288 := by
  simp only [fixedLtLengths, List.length_append, List.length_replicate]

theorem length_fixedDt : fixedDtLengths.length = 30 := List.length_replicate

theorem lengthCount_fixedLt (l : Nat) :
    lengthCount fixedLtLengths l = if l = 7 then 24 else if l = 8 then 152 else if l = 9 then 112 else 0 := by
  have h := lengthCount_take_fixedLt 288 l
  rw [List.take_of_length_le length_fixedLt.le] at h
  rw [h]
  split_ifs <;> omega

theorem lengthCount_fixedDt (l : Nat) : lengthCount fixedDtLengths l = if l = 5 then 30 else 0 := by
  have h := lengthCount_take_fixedDt 30 l
  rwa [List.take_of_length_le length_fixedDt.le] at h

/-- Where the symbols of each length begin. -/
theorem baseIndex_fixedLt : baseIndex fixedLtLengths 7 = 0 ∧ baseIndex fixedLtLengths 8 = 24 ∧ baseIndex fixedLtLengths 9 = 176 := by
  simp only [baseIndex, lengthCount_fixedLt, Nat.reduceAdd]
  decide

theorem baseIndex_fixedDt : baseIndex fixedDtLengths 5 = 0 := by
  simp only [baseIndex, lengthCount_fixedDt, Nat.reduceAdd]
  decide

/-- The length of a symbol of the fixed literal/length tree (42_huffman.md R167). -/
theorem getD_fixedLt (i : Nat) :
    fixedLtLengths.getD i 0 = if i < 144 then 8 else if i < 256 then 9 else if i < 280 then 7 else if i < 288 then 8 else 0 := by
  simp only [fixedLtLengths, List.getD_eq_getElem?_getD, List.getElem?_append, List.getElem?_replicate, List.length_append,
    List.length_replicate]
  split_ifs <;> simp <;> omega

theorem symbolPlace_fixedLt {i : Nat} (hi : i < 288) :
    symbolPlace fixedLtLengths i =
      if i < 144 then 24 + i else if i < 256 then i + 32 else if i < 280 then i - 256 else i - 112 := by
  obtain ⟨h7, h8, h9⟩ := baseIndex_fixedLt
  rw [symbolPlace, lengthRank, getD_fixedLt, lengthCount_take_fixedLt]
  split_ifs <;> simp_all <;> omega

theorem getD_fixedDt {i : Nat} (hi : i < 30) : fixedDtLengths.getD i 0 = 5 := by
  simp only [fixedDtLengths, List.getD_eq_getElem?_getD, List.getElem?_replicate, if_pos hi, Option.getD_some]

theorem symbolPlace_fixedDt {i : Nat} (hi : i < 30) : symbolPlace fixedDtLengths i = i := by
  have h5 : (5 : BitVec 4).toNat = 5 := rfl
  rw [symbolPlace, lengthRank, getD_fixedDt hi, lengthCount_take_fixedDt, h5, baseIndex_fixedDt, if_pos rfl]
  omega

/-! ### `LoadFixed()`: 42_huffman.md R168 -/

theorem fixedLt_valid : overSubscribed fixedLtLengths = false := by
  rw [← Bool.not_eq_true, overSubscribed_iff, kraftSum]
  simp only [lengthCount_fixedLt]
  decide

theorem fixedDt_valid : overSubscribed fixedDtLengths = false := by
  rw [← Bool.not_eq_true, overSubscribed_iff, kraftSum]
  simp only [lengthCount_fixedDt]
  decide

/-- The engine after `LoadFixed()` (42_huffman.md R168). -/
def Engine.withFixed (c : Engine) : Engine :=
  { c with lt := builtTree c.lt fixedLtLengths, dt := builtTree c.dt fixedDtLengths }

theorem loadFixed_run (c : Engine) : loadFixed.run c = .ok () c.withFixed := by
  simp only [loadFixed, EStateM.run_bind, buildTree_run, fixedLt_valid, fixedDt_valid, Bool.false_eq_true, if_false]
  rfl

theorem read_count_builtTree (old : Tree) (ls : List (BitVec 4)) {l : Nat} (hl : l < 16) :
    (builtTree old ls).count.read l = some (BitVec.ofNat 9 (if l = 0 then 0 else lengthCount ls l)) := by
  rw [← getD_lengthCounts ls hl]
  exact read_countTable _ hl

theorem read_trans_fixedLt (old : Tree) {i k : Nat} (hi : i < 288)
    (hk : k = if i < 144 then 24 + i else if i < 256 then i + 32 else if i < 280 then i - 256 else i - 112) :
    (builtTree old fixedLtLengths).trans.read k = some (BitVec.ofNat 9 i) := by
  rw [hk, ← symbolPlace_fixedLt hi]
  refine (placedFrom_builtTree old fixedLtLengths).placed i (Nat.zero_le i) ?_
  rw [getD_fixedLt]
  split_ifs
  all_goals decide

theorem read_trans_fixedDt (old : Tree) {i : Nat} (hi : i < 30) :
    (builtTree old fixedDtLengths).trans.read i = some (BitVec.ofNat 9 i) := by
  have h := (placedFrom_builtTree old fixedDtLengths).placed i (Nat.zero_le i) (by rw [getD_fixedDt hi]; decide)
  rwa [symbolPlace_fixedDt hi] at h

/-! ### The statement -/

/-- Settles O27: the counts and the places of the symbols follow from how often a length stands in front of a symbol. -/
theorem fixedLoadsTheFixedTables : Obligations.FixedLoadsTheFixedTables := by
  intro s
  have hrun : (bodyOf .fixed).run s.toEngine.cleared = .ok (some 0) s.toEngine.cleared.withFixed := by
    simp only [bodyOf, EStateM.run_bind, loadFixed_run]
    rfl
  refine ⟨builtTree s.lt fixedLtLengths, builtTree s.dt fixedDtLengths, exec_of_ok (i := .fixed) (r := some 0) rfl hrun, rfl, rfl,
    fun l hl => ?_, fun k hk => read_trans_fixedLt _ (by omega) ?_, fun k hk => read_trans_fixedLt _ (by omega) ?_,
    fun k hk => read_trans_fixedLt _ (by omega) ?_, fun k hk => read_trans_fixedLt _ (by omega) ?_, fun l hl => ?_,
    fun k hk => read_trans_fixedDt _ hk⟩
  · rw [read_count_builtTree _ _ hl, lengthCount_fixedLt]
    interval_cases l <;> rfl
  · split_ifs <;> omega
  · exact (if_pos hk).symm
  · split_ifs <;> omega
  · split_ifs <;> omega
  · rw [read_count_builtTree _ _ hl, lengthCount_fixedDt]
    interval_cases l <;> rfl

end Sys2Proof.Machine
end

section
/-! SUPPORT. Commands whose next state is read off one operation: `PUT` and the refused `GET` and `COPY` (43_window.md R190, R193, R199 to
R202), a `STEP` that runs no action (44_inflate.md R224, R235), and a command that waits or is resumed (60_exceptions.md R288;
log entries 5 and 23). At the end the settled statements. -/

namespace Sys2Proof.Machine

/-! ### `Emit` where every destination takes the byte: 43_window.md R190 -/

section
variable {c : Engine} {b : Byte}

/-- The engine after the resident write of `Emit` (43_window.md R190). -/
def Engine.residentWritten (c : Engine) (b : Byte) : Engine :=
  { c with
    mem := if c.latch.ctrl.dstRes then c.mem.write (c.latch.dstBase + c.dstPos).toNat b else c.mem
    dstPos := if c.latch.ctrl.dstRes then c.dstPos + 1 else c.dstPos }

theorem emitResident_run_of_backed
    (h : c.latch.ctrl.dstRes = true → c.platform.backs (c.latch.dstBase + c.dstPos) = true) :
    (emitResident b).run c = .ok () (c.residentWritten b) := by
  rw [emitResident_run, Engine.residentWritten]
  cases hres : c.latch.ctrl.dstRes with
  | false => rfl
  | true => simp only [h hres, if_true]

/-- The engine after the push of `Emit` (43_window.md R190). -/
def Engine.pushed (c : Engine) (b : Byte) : Engine :=
  { c with
    ports :=
      if c.latch.ctrl.dstPush then
        { c.ports with pushReady := c.ports.pushReady - 1, log := c.ports.log ++ [.push b] }
      else c.ports }

theorem emitPush_run_of_ready (h : c.latch.ctrl.dstPush = true → c.ports.pushReady ≠ 0) :
    (emitPush b).run c = .ok () (c.pushed b) := by
  rw [emitPush_run, pushByte_run, Engine.pushed]
  cases hpush : c.latch.ctrl.dstPush with
  | false => rfl
  | true => simp only [if_neg (h hpush), if_true]

/-- `Emit` returns with every effect done just where no destination makes it wait. -/
theorem emit_run_of_ready (hres : c.latch.ctrl.dstRes = true → c.platform.backs (c.latch.dstBase + c.dstPos) = true)
    (hpush : c.latch.ctrl.dstPush = true → c.ports.pushReady ≠ 0) : (emit b).run c = .ok () (c.emitted b) := by
  rw [emit_run, emitResident_run_of_backed hres]
  simp only [emitPush_run_of_ready (c := c.residentWritten b) hpush, emitRing_run, ringWrite_run, Engine.emitted]
  by_cases hcap : c.latch.ringCap = 0
  · rw [if_pos (by exact hcap), if_pos hcap, if_pos hcap, if_pos hcap]
    rfl
  · rw [if_neg (by exact hcap), if_neg hcap, if_neg hcap, if_neg hcap]
    rfl

/-- `Emit` waits at an unbacked resident byte with nothing done. -/
theorem emit_run_of_unbacked (hres : c.latch.ctrl.dstRes = true)
    (hbacks : c.platform.backs (c.latch.dstBase + c.dstPos) = false) :
    (emit b).run c = .error (.wait (.unbacked (c.latch.dstBase + c.dstPos))) c := by
  rw [emit_run, emitResident_run, if_pos hres, hbacks]
  rfl

/-- `Emit` waits at the push port with the resident write done. -/
theorem emit_run_of_not_accepted (hpush : c.latch.ctrl.dstPush = true) (hq : c.ports.pushReady = 0)
    (hres : c.latch.ctrl.dstRes = true → c.platform.backs (c.latch.dstBase + c.dstPos) = true) :
    (emit b).run c = .error (.wait (.push b)) (c.residentWritten b) := by
  have hstop : (emitPush b).run (c.residentWritten b) = .error (.wait (.push b)) (c.residentWritten b) :=
    (emitPush_run b _).trans ((if_pos hpush).trans ((pushByte_run b _).trans (if_pos hq)))
  rw [emit_run, emitResident_run_of_backed hres]
  simp only [hstop]

theorem Engine.accepts.emit_run {n : Nat} (h : c.accepts (n + 1)) : (emit b).run c = .ok () (c.emitted b) := by
  refine emit_run_of_ready (fun hres => ?_) fun hpush => ?_
  · simpa using (h.1 hres).2 0 n.succ_pos
  · exact Nat.ne_of_gt (Nat.zero_lt_of_lt (h.2 hpush))
end

/-! ### `PUT`, and the refused commands of the window: 43_window.md R193, R199 to R202 -/

theorem putBody_run (b : Byte) (c : Engine) :
    (putBody b).run c =
      if c.latch.ctrl.dstRes = true ∧ c.dstPos = c.latch.dstLen then .error (.raise .destFull) c
      else match (emit b).run c with
        | .ok () c' => .ok (some 0) c'
        | .error e c' => .error e c' := by
  have hcond : (!(c.latch.ctrl.dstRes && decide (c.dstPos = c.latch.dstLen))) = true ↔
      ¬ (c.latch.ctrl.dstRes = true ∧ c.dstPos = c.latch.dstLen) := by
    rw [Bool.not_eq_true', ← Bool.not_eq_true, Bool.and_eq_true, decide_eq_true_eq]
  simp only [putBody, EStateM.run_bind, EStateM.run_get, require_run, hcond]
  by_cases h : c.latch.ctrl.dstRes = true ∧ c.dstPos = c.latch.dstLen
  · rw [if_pos h, if_neg (not_not.mpr h)]
  · rw [if_neg h, if_pos h]
    dsimp only
    cases (emit b).run c <;> rfl

/-- In a stream a command starts behind the check for one. -/
theorem streamBody_run {x : Cmd (Option Word)} {s : State} (hs : s.pstate ≠ .idle) :
    (requireStream >>= fun _ => x).run s.toEngine.cleared = x.run s.toEngine.cleared :=
  requireStream_bind_run hs

theorem copyBody_run (len : BitVec 9) (d : Nat) (c : Engine) :
    (copyBody len d).run c =
      if c.covered d then
        if c.latch.ctrl.dstRes = true ∧ c.room < len.toNat then .error (.raise .destFull) c
        else match (copyLoop d len.toNat).run c with
          | .ok () c' => .ok (some (len.setWidth 32)) c'
          | .error e c' => .error e c'
      else .error (.raise .invalidDistance) c := by
  have hcond : (!(c.latch.ctrl.dstRes && decide (c.room < len.toNat))) = true ↔
      ¬ (c.latch.ctrl.dstRes = true ∧ c.room < len.toNat) := by
    rw [Bool.not_eq_true', ← Bool.not_eq_true, Bool.and_eq_true, decide_eq_true_eq]
  simp only [copyBody, EStateM.run_bind, EStateM.run_get, require_run, hcond]
  cases hcov : c.covered d with
  | false => rfl
  | true =>
    simp only [if_true]
    by_cases hroom : c.latch.ctrl.dstRes = true ∧ c.room < len.toNat
    · rw [if_pos hroom, if_neg (not_not.mpr hroom)]
    · rw [if_neg hroom, if_pos hroom]
      dsimp only
      cases (copyLoop d len.toNat).run c <;> rfl

theorem getBody_run (d : Nat) (c : Engine) :
    (getBody d).run c =
      if c.covered d then match (histRead d).run c with
        | .ok b c' => .ok (some (b.setWidth 32)) c'
        | .error e c' => .error e c'
      else .error (.raise .invalidDistance) c := by
  simp only [getBody, EStateM.run_bind, EStateM.run_get, require_run]
  cases hcov : c.covered d with
  | false => rfl
  | true =>
    simp only [if_true]
    cases (histRead d).run c <;> rfl

/-- What `Covered` checks, written out (43_window.md R193). -/
theorem Engine.covered_iff (c : Engine) (d : Nat) :
    c.covered d = true ↔ 1 ≤ d ∧ d ≤ 32768 ∧
      ((c.latch.ctrl.dstRes = true ∧ d ≤ c.dstPos.toNat) ∨ (c.latch.ringCap ≠ 0 ∧ d ≤ c.ringFill.toNat) ∨
        (c.latch.ctrl.rdestEn = true ∧ d ≤ c.outSat.toNat)) := by
  simp only [Engine.covered, Config.windowMax, Bool.and_eq_true, Bool.or_eq_true, decide_eq_true_eq, and_assoc, or_assoc]
  exact and_congr_right fun _ => and_congr_left fun _ => decide_eq_true_iff

/-! ### A `STEP` that runs no action: 44_inflate.md R224, R235 -/

/-- The bound of the loop is never 0. -/
theorem Engine.stepBound_succ (c : Engine) (ecap : Nat) : ∃ k, c.stepBound ecap = k + 1 :=
  ⟨2 * (c.bitsLeft + ecap) + 1, rfl⟩

theorem stepBody_run_of_active {c : Engine} (cap : BitVec 26) (h : c.pstate.active = true) :
    (stepBody cap).run c = (stepLoop (c.budget cap) (c.stepBound (c.budget cap)) 0).run c := by
  simp only [stepBody, EStateM.run_bind, EStateM.run_get]
  cases hp : c.pstate with
  | hdr | stored | huff | copy | trailer => rfl
  | idle | done | dataError | checksumError | sourceExhausted => simp [hp, PState.active] at h

theorem stepBody_run_of_done {c : Engine} (cap : BitVec 26) (h : c.pstate = .done) :
    (stepBody cap).run c = .ok (some 0) c := by
  simp [stepBody, h]

theorem stepBody_run_of_failed {c : Engine} (cap : BitVec 26) (h : c.pstate.failed = true) :
    (stepBody cap).run c = .error (.raise c.streamErr) c := by
  simp only [stepBody, EStateM.run_bind, EStateM.run_get]
  cases hp : c.pstate with
  | dataError | checksumError | sourceExhausted => rfl
  | idle | hdr | stored | huff | copy | trailer | done => simp [hp, PState.failed] at h

theorem Engine.budget_eq_zero {c : Engine} {cap : BitVec 26}
    (h : cap = 0 ∨ (c.latch.ctrl.dstRes = true ∧ c.latch.dstLen = c.dstPos)) : c.budget cap = 0 := by
  rcases h with rfl | ⟨hres, hfull⟩
  · simp [Engine.budget]
  · simp [Engine.budget, Engine.room, hres, hfull]

/-! ### Reading bits with none held: 40_bitreader.md R121, R122 -/

/-- Where the next byte cannot be fetched, reading any bits stops there. -/
theorem getBits_run_of_fetch_error {c c' : Engine} {stop : Stop} {n : Nat} (hn : n ≠ 0) (hcnt : c.bitcnt = 0)
    (h : fetchSourceByte.run c = .error stop c') : (getBits n).run c = .error stop c' := by
  obtain ⟨k, rfl⟩ := Nat.exists_eq_succ_of_ne_zero hn
  rw [getBits, getBitsLoop_succ_run, getBit_run, refill_run, if_pos hcnt, h]

theorem fetchSourceByte_run_of_no_answer {c : Engine} (hpull : c.latch.ctrl.srcPull = true) (hq : c.ports.pullQ = []) :
    fetchSourceByte.run c = .error (.wait .pull) c := by
  simp [fetchSourceByte_run, pullByte_run, hpull, hq]

theorem fetchSourceByte_run_of_unbacked {c : Engine} (hpull : c.latch.ctrl.srcPull = false) (hpos : c.srcPos ≠ c.latch.srcLen)
    (hbacks : c.platform.backs (c.latch.srcBase + c.srcPos) = false) :
    fetchSourceByte.run c = .error (.wait (.unbacked (c.latch.srcBase + c.srcPos))) c := by
  simp [fetchSourceByte_run, residentByte_run, memRead_run, hpull, hpos, hbacks]

/-- Where neither the resident slice nor the ring reaches and no answer is ready, `HistRead` waits for one. -/
theorem histRead_run_of_no_answer {c : Engine} {d : Nat} (hres : c.latch.ctrl.dstRes = true → c.dstPos.toNat < d)
    (hring : c.latch.ringCap = 0 ∨ c.ringFill.toNat < d) (hq : c.ports.readDestQ = []) :
    (histRead d).run c = .error (.wait (.readDest (c.outCount - BitVec.ofNat 32 d))) c := by
  have hres' : ¬ (c.latch.ctrl.dstRes && decide (d ≤ c.dstPos.toNat)) = true := by simpa using hres
  have hring' : ¬ (decide (c.latch.ringCap ≠ 0) && decide (d ≤ c.ringFill.toNat)) = true := by
    simpa [or_iff_not_imp_left] using hring
  rw [histRead_run, if_neg hres', if_neg hring', readDest_run, hq]

/-! ### Waiting: log entries 5 and 23 -/

/-- A command depends on the engine it starts from and, but for `BUSY` and the command in progress, leaves the rest of the machine
as it is. -/
theorem exec_congr {i : Instr} {s t : State} (hc : s.toEngine.cleared = t.toEngine.cleared) (hdrop : s.drop = t.drop)
    (hq : s.hostq = t.hostq) (hreads : s.busReads = t.busReads) : exec i s = exec i t := by
  obtain ⟨cs, _, _, _, _, _⟩ := s
  obtain ⟨ct, _, _, _, _, _⟩ := t
  obtain rfl := hdrop
  obtain rfl := hq
  obtain rfl := hreads
  change cs.cleared = ct.cleared at hc
  rw [exec_eq_runCmd, exec_eq_runCmd]
  simp only [runCmd]
  rw [show ({ cs with err := .none } : Engine) = { ct with err := .none } from hc]
  rfl

/-- A command in progress keeps the engine it was accepted with. -/
theorem exec_waiting {i : Instr} {s t : State} (h : exec i s = .next t) (hbusy : t.busy = true) :
    ∃ w, t.running = some ⟨i, s.toEngine.cleared, w⟩ := by
  rcases runCmd_running (exec_eq_runCmd i s ▸ h) with ⟨-, hb⟩ | ⟨w, hr, -⟩
  · rw [hb] at hbusy
    cases hbusy
  · exact ⟨w, hr⟩

/-- An answer to a command that waits has the outcome of the same answer before the command. -/
theorem deliver_waiting {i : Instr} {s t : State} {f : Engine → Engine} (h : exec i s = .next t) (hbusy : t.busy = true)
    (hf : (f s.toEngine.cleared).cleared = (f s.toEngine).cleared) :
    deliver f t = exec i { s with toEngine := f s.toEngine } := by
  obtain ⟨w, hr⟩ := exec_waiting h hbusy
  obtain ⟨hdrop, hq, hreads⟩ := exec_outside h
  rw [deliver_running f t _ hr]
  exact exec_congr hf hdrop hq hreads

/-- While `BUSY` = 1 a `wait` lets the first answer or reset behind it take effect. -/
theorem step_wait_busy {s : State} {before after : List HostAction} {act : HostAction}
    {f : State → Host.Outcome State Fault Refusal} (hbefore : ∀ a ∈ before, a.besideProgram = none) (hbusy : s.busy = true)
    (hf : act.besideProgram = some f) (hq : s.hostq = .wait :: before ++ act :: after) :
    step s = f { s with hostq := .wait :: before ++ after } := by
  rw [step_act s .wait (before ++ act :: after) hq]
  change hostWait _ = _
  rw [hostWait, if_pos (by exact hbusy)]
  simp only [firstBesideProgram_append before after act f hbefore hf]
  rfl

theorem step_wait_unanswered {s : State} {rest : List HostAction} (hbusy : s.busy = true) (hq : s.hostq = .wait :: rest)
    (hrest : ∀ act ∈ rest, act.besideProgram = none) : step s = .next s := by
  rw [step_act s .wait rest hq]
  change hostWait _ = _
  rw [hostWait, if_pos (by exact hbusy)]
  simp only [firstBesideProgram_none rest hrest, ← hq]

/-! ### The statements -/

/-- Settles O30: a `PUT` is an `Emit`, unless the resident destination is full. -/
theorem putEmitsOneByte : Obligations.PutEmitsOneByte := by
  intro s b hs
  refine ⟨fun hacc => ?_, fun hres hfull => ?_⟩
  · have hroom : ¬ (s.latch.ctrl.dstRes = true ∧ s.dstPos = s.latch.dstLen) := by
      rintro ⟨hres, hfull⟩
      have hle := (hacc.1 hres).1
      simp [Engine.room, hfull] at hle
    have hemit : (emit b).run s.toEngine.cleared = .ok () (s.toEngine.cleared.emitted b) := Engine.accepts.emit_run (n := 0) hacc
    refine exec_of_ok (i := .put b) (r := some 0) (c := s.toEngine.cleared.emitted b) rfl ((streamBody_run hs).trans ?_)
    exact (putBody_run b _).trans ((if_neg hroom).trans (by rw [hemit]))
  · refine exec_of_raise (i := .put b) (e := .destFull) (c := s.toEngine.cleared) rfl ((streamBody_run hs).trans ?_)
    exact (putBody_run b _).trans (if_pos ⟨hres, hfull⟩)

/-- Settles O32: the checks come before any effect. -/
theorem refusedHistoryReadsDoNothing : Obligations.RefusedHistoryReadsDoNothing := by
  intro s d len hs
  have hwf (hne : len ≠ 0) (hle : len.toNat ≤ 258) : (Instr.copy len d).wf = true := by
    have hpos : 1 ≤ len.toNat := Nat.pos_of_ne_zero fun h => hne (BitVec.eq_of_toNat_eq h)
    simp [Instr.wf, Nat.ne_of_gt hpos, hle]
  refine ⟨fun hnot => ?_, fun hle hcov hres hroom => ?_⟩
  · have hcov : s.toEngine.cleared.covered d.toNat = false := by
      rw [← Bool.not_eq_true, Engine.covered_iff]
      exact hnot
    refine ⟨exec_of_raise (i := .get d) (e := .invalidDistance) (c := s.toEngine.cleared) rfl ((streamBody_run hs).trans ?_),
      fun hne hle => exec_of_raise (i := .copy len d) (e := .invalidDistance) (c := s.toEngine.cleared) (hwf hne hle)
        ((streamBody_run hs).trans ?_)⟩
    · rw [getBody_run, hcov]
      rfl
    · rw [copyBody_run, hcov]
      rfl
  · have hne : len ≠ 0 := by
      rintro rfl
      exact absurd hroom (Nat.not_lt_zero _)
    refine exec_of_raise (i := .copy len d) (e := .destFull) (c := s.toEngine.cleared) (hwf hne hle)
      ((streamBody_run hs).trans ?_)
    exact (copyBody_run len _ _).trans ((if_pos hcov).trans (if_pos ⟨hres, hroom⟩))

/-- Settles O38: in each case the loop is not entered, or ends before its first pass. -/
theorem stepOnAnEndedStreamOrWithNoBudget : Obligations.StepOnAnEndedStreamOrWithNoBudget := by
  intro s cap
  refine ⟨fun hp => ?_, fun hp => ?_, fun hp hzero => ?_⟩
  · refine exec_of_ok (i := .step cap) (r := some 0) (c := s.toEngine.cleared) rfl ((streamBody_run ?_).trans ?_)
    · rw [hp]
      decide
    · exact stepBody_run_of_done cap hp
  · refine exec_of_raise (i := .step cap) (c := s.toEngine.cleared) rfl ((streamBody_run ?_).trans ?_)
    · rintro h
      rw [h] at hp
      cases hp
    · exact stepBody_run_of_failed cap hp
  · refine exec_of_ok (i := .step cap) (r := some 0) (c := s.toEngine.cleared) rfl
      ((streamBody_run (PState.ne_of_active hp rfl)).trans ?_)
    obtain ⟨k, hk⟩ := s.toEngine.cleared.stepBound_succ (s.toEngine.cleared.budget cap)
    have hbudget : s.toEngine.cleared.budget cap = 0 := Engine.budget_eq_zero hzero
    rw [stepBody_run_of_active (c := s.toEngine.cleared) cap hp, hk, stepLoop_succ_run, hbudget, if_pos (.inr rfl)]
    rfl

/-- Settles O58: each command stops at the first operation that cannot go on. -/
theorem unansweredPortsAndUnbackedAddressesKeepBusy : Obligations.UnansweredPortsAndUnbackedAddressesKeepBusy := by
  refine ⟨fun s hs => ⟨fun n hn hle hcnt => ?_, fun b hroom => ?_, fun d hcov hres hring hq => ?_⟩,
    fun s rest hbusy hq hrest => step_wait_unanswered hbusy hq hrest⟩
  · have hne : n.toNat ≠ 0 := fun h => hn (BitVec.eq_of_toNat_eq h)
    have hstop {w : Waiting} (h : fetchSourceByte.run s.toEngine.cleared = .error (.wait w) s.toEngine.cleared) :
        exec (.getbits n) s = .next (s.suspend (.getbits n) s.toEngine.cleared s.toEngine.cleared w) :=
      exec_of_wait (i := .getbits n) (s := s) (decide_eq_true hle)
        ((streamBody_run hs).trans (by rw [EStateM.run_map, getBits_run_of_fetch_error (c := s.toEngine.cleared) hne hcnt h]; rfl))
    refine ⟨fun hpull hq => hstop (fetchSourceByte_run_of_no_answer hpull hq),
      fun hpull hpos hbacks => hstop (fetchSourceByte_run_of_unbacked hpull hpos hbacks)⟩
  · have hstop {w : Waiting} {c : Engine} (h : (emit b).run s.toEngine.cleared = .error (.wait w) c) :
        exec (.put b) s = .next (s.suspend (.put b) s.toEngine.cleared c w) := by
      refine exec_of_wait (i := .put b) (s := s) rfl ((streamBody_run hs).trans ((putBody_run b _).trans ?_))
      rw [if_neg (by exact fun h => hroom h.1 h.2), h]
    refine ⟨fun hres hbacks => hstop (emit_run_of_unbacked hres hbacks),
      fun hpush hq hbacks => hstop (emit_run_of_not_accepted hpush hq hbacks)⟩
  · refine exec_of_wait (i := .get d) (s := s) rfl ((streamBody_run hs).trans ((getBody_run _ _).trans ?_))
    rw [if_pos (by exact hcov), histRead_run_of_no_answer (c := s.toEngine.cleared) hres hring hq]
    rfl

/-- Settles O59: a waiting command keeps the engine it started from, and running it again from there over one more answer is running
it with that answer ready. -/
theorem answerAfterAWaitEqualsAnswerBefore : Obligations.AnswerAfterAWaitEqualsAnswerBefore := by
  refine ⟨fun i s t h hbusy => ⟨fun p => deliver_waiting h hbusy rfl, deliver_waiting h hbusy rfl,
    fun b => deliver_waiting h hbusy rfl⟩, fun s before after hbefore hbusy => ⟨fun p hq => ?_, fun hq => ?_, fun b hq => ?_,
    fun hq => ?_⟩, fun s rest hbusy hq => step_wait_over hbusy hq⟩
  all_goals exact step_wait_busy hbefore hbusy rfl hq

end Sys2Proof.Machine
end

section
/-! SUPPORT. Induction over the pieces of a command: a property that the primitive pieces have and that sequences keep holds of the bit
reader, the Huffman engine, the dynamic header, reading history, the actions of the sequencer and `Emit`. -/

namespace Sys2Proof.Machine

/-! ### The registers that only the sequencer and the end of a command write -/

/-- Changes to `PSTATE`, `RESULT`, `BFINAL`, `BTYPE`, `SREM`, `LZ_REM` and `LZ_DIST`: the bit reader, the Huffman engine and the window
neither read nor write these. -/
structure Notes where
  pstate : PState → PState := id
  result : Word → Word := id
  bfinal : Bool → Bool := id
  btype : BitVec 2 → BitVec 2 := id
  srem : BitVec 16 → BitVec 16 := id
  lzRem : BitVec 9 → BitVec 9 := id
  lzDist : BitVec 16 → BitVec 16 := id

/-- The engine with these registers changed. -/
def Engine.noted (c : Engine) (n : Notes) : Engine :=
  { c with
    pstate := n.pstate c.pstate, result := n.result c.result, bfinal := n.bfinal c.bfinal, btype := n.btype c.btype
    srem := n.srem c.srem, lzRem := n.lzRem c.lzRem, lzDist := n.lzDist c.lzDist }

/-- The engine with other ports. -/
def Engine.withPorts (c : Engine) (p : Ports) : Engine := { c with ports := p }

/-- The engine with another `RESULT`. -/
def Engine.withResult (c : Engine) (r : Word) : Engine := { c with result := r }

/-- The errors of the sequencer but the comparison of the trailer, which only the trailer makes. -/
def Err.ofPiece : Err → Bool
  | .checksum => false
  | e => e.fromStep

theorem Err.fromStep_of_ofPiece {e : Err} (h : e.ofPiece = true) : e.fromStep = true := by
  cases e with
  | checksum => cases h
  | _ => exact h

/-- The stops that a piece of a command other than the check for a stream, `INIT` and the trailer makes by itself. -/
def Stop.Ordinary : Stop → Prop
  | .raise e => e.ofPiece = true
  | .wait _ => True
  | .fault f => f ≠ .loopBound
  | .refuse _ => False

/-! ### Pieces that use none of these registers -/

/-- A property of pieces that the primitive ones have and that sequences keep. A piece that reads the engine first may depend on
neither the ports nor the registers of `Notes`. -/
structure Cmd.Closed (P : (α : Type) → Cmd α → Prop) : Prop where
  pure {α : Type} (a : α) : P α (Pure.pure a)
  bind {α β : Type} {x : Cmd α} {f : α → Cmd β} (hx : P α x) (hf : ∀ a, P β (f a)) : P β (x >>= f)
  stop {α : Type} {st : Stop} (h : st.Ordinary) : P α (throw st)
  get_bind {α : Type} {f : Engine → Cmd α} (hsame : ∀ c n p, f ((c.noted n).withPorts p) = f c) (hf : ∀ c, P α (f c)) :
    P α (get >>= f)
  getBit : P Bool getBit
  alignBits : P Unit alignBits
  lenWrite (i : Nat) (v : BitVec 4) : P Unit (lenWrite i v)
  buildTree (s : Slot) (ls : List (BitVec 4)) : P Unit (buildTree s ls)
  readDest (pos : Word) : P Byte (readDest pos)

section
variable {P : (α : Type) → Cmd α → Prop} (h : Cmd.Closed P)
include h

theorem Cmd.Closed.raise {α : Type} {e : Err} (he : e.ofPiece = true) : P α (Machine.raise e) := h.stop (st := .raise e) he

theorem Cmd.Closed.require (ok : Bool) {e : Err} (he : e.ofPiece = true) : P Unit (require ok e) := by
  unfold Machine.require
  split
  · exact h.pure ()
  · exact h.raise he

theorem Cmd.Closed.getBitsLoop (k i : Nat) (v : Word) : P Word (getBitsLoop k i v) := by
  induction k generalizing i v with
  | zero => exact h.pure v
  | succ k ih => exact h.bind h.getBit fun _ => ih _ _

theorem Cmd.Closed.getBits (n : Nat) : P Word (getBits n) := h.getBitsLoop n 0 0

theorem Cmd.Closed.treeEntry (s : Slot) (table : Cells (BitVec 9)) (i : Nat) : P (BitVec 9) (treeEntry s table i) := by
  unfold Machine.treeEntry
  cases table.read i with
  | some v => exact h.pure v
  | none => exact h.stop (st := .fault (.unwrittenTree s)) nofun

theorem Cmd.Closed.decodeLoop (s : Slot) (t : Tree) (k l code first index : Nat) :
    P (BitVec 9) (decodeLoop s t k l code first index) := by
  induction k generalizing l code first index with
  | zero => exact h.raise rfl
  | succ k ih =>
    refine h.bind h.getBit fun b => h.bind (h.treeEntry s t.count l) fun n => ?_
    split
    · exact h.treeEntry _ _ _
    · exact ih _ _ _ _

theorem Cmd.Closed.decodeSymbol (s : Slot) : P (BitVec 9) (decodeSymbol s) := by
  refine h.get_bind (fun c n p => ?_) fun c => h.bind (h.require _ rfl) fun _ => h.decodeLoop _ _ _ _ _ _ _
  have hsame : ((c.noted n).withPorts p).tree s = c.tree s := by cases s <;> rfl
  rw [hsame]

theorem Cmd.Closed.lenRead (i : Nat) : P (BitVec 4) (lenRead i) := by
  refine h.get_bind (fun _ _ _ => rfl) fun c => ?_
  cases c.len.read i with
  | some v => exact h.pure v
  | none => exact h.stop (st := .fault (.unwrittenLen i)) nofun

theorem Cmd.Closed.readLens (base num : Nat) : P (List (BitVec 4)) (readLens base num) := by
  induction num generalizing base with
  | zero => exact h.pure []
  | succ num ih => exact h.bind (h.lenRead base) fun v => h.bind (ih _) fun rest => h.pure (v :: rest)

theorem Cmd.Closed.loadFixed : P Unit loadFixed := h.bind (h.buildTree _ _) fun _ => h.buildTree _ _

theorem Cmd.Closed.fillLens (v : BitVec 4) (i k : Nat) : P Unit (fillLens v i k) := by
  induction k generalizing i with
  | zero => exact h.pure ()
  | succ k ih => exact h.bind (h.lenWrite i v) fun _ => ih _

theorem Cmd.Closed.readCodeLens (places : List Nat) : P Unit (readCodeLens places) := by
  induction places with
  | nil => exact h.pure ()
  | cons p rest ih => exact h.bind (h.getBits 3) fun v => h.bind (h.lenWrite p _) fun _ => ih

theorem Cmd.Closed.repeatCode (sym num : Nat) : P (BitVec 4 × Nat) (repeatCode sym num) := by
  unfold Machine.repeatCode
  split
  · split
    · exact h.raise rfl
    · exact h.bind (h.lenRead _) fun v => h.bind (h.getBits 2) fun r => h.pure _
  · split
    · exact h.bind (h.getBits 3) fun r => h.pure _
    · exact h.bind (h.getBits 7) fun r => h.pure _

theorem Cmd.Closed.readLengths (total passes num : Nat) : P Unit (readLengths total passes num) := by
  induction passes generalizing num with
  | zero => exact h.pure ()
  | succ k ih =>
    unfold Machine.readLengths
    split
    · refine h.bind (h.decodeSymbol .ct) fun sym => ?_
      split
      · exact h.bind (h.lenWrite num _) fun _ => ih _
      · exact h.bind (h.repeatCode _ num) fun r => h.bind (h.require _ rfl) fun _ => h.bind (h.fillLens _ _ _) fun _ => ih _
    · exact h.pure ()

theorem Cmd.Closed.dynamicHeader : P Unit dynamicHeader :=
  h.bind (h.getBits 5) fun _ => h.bind (h.getBits 5) fun _ => h.bind (h.getBits 4) fun _ => h.bind (h.require _ rfl) fun _ =>
    h.bind (h.fillLens _ _ _) fun _ => h.bind (h.readCodeLens _) fun _ => h.bind (h.readLens _ _) fun _ =>
    h.bind (h.buildTree _ _) fun _ => h.bind (h.readLengths _ _ _) fun _ => h.bind (h.readLens _ _) fun _ =>
    h.bind (h.buildTree _ _) fun _ => h.bind (h.readLens _ _) fun _ => h.buildTree _ _

theorem Cmd.Closed.memRead (a : Addr) : P Byte (memRead a) := by
  refine h.get_bind (fun _ _ _ => rfl) fun c => ?_
  split
  · cases c.mem.read a.toNat with
    | some b => exact h.pure b
    | none => exact h.stop (st := .fault (.unwrittenMem a)) nofun
  · exact h.stop (st := .wait (.unbacked a)) trivial

theorem Cmd.Closed.ringRead (i : Nat) : P Byte (ringRead i) := by
  refine h.get_bind (fun _ _ _ => rfl) fun c => ?_
  cases c.ring.read i with
  | some b => exact h.pure b
  | none => exact h.stop (st := .fault (.unwrittenRing i)) nofun

theorem Cmd.Closed.histRead (d : Nat) : P Byte (histRead d) := by
  refine h.get_bind (fun _ _ _ => rfl) fun c => ?_
  split
  · exact h.memRead _
  · split
    · exact h.ringRead _
    · exact h.readDest _

theorem Cmd.Closed.getBytes4 : P (Byte × Byte × Byte × Byte) getBytes4 :=
  h.bind (h.getBits 8) fun _ => h.bind (h.getBits 8) fun _ => h.bind (h.getBits 8) fun _ => h.bind (h.getBits 8) fun _ =>
    h.pure _

theorem Cmd.Closed.map {α β : Type} {x : Cmd α} (hx : P α x) (g : α → β) : P β (g <$> x) := by
  rw [← bind_pure_comp]
  exact h.bind hx fun a => h.pure (g a)
end

/-! ### The actions of the sequencer that emit nothing -/

/-- A property as in `Cmd.Closed` that the sequencer's own changes to its registers have too. A piece that reads the engine first may
depend on neither the ports nor `RESULT`, and no change is one to `RESULT`. -/
structure Cmd.SequencerClosed (P : (α : Type) → Cmd α → Prop) : Prop extends Cmd.Closed P where
  read_bind {α : Type} {f : Engine → Cmd α} (hsame : ∀ c r p, f ((c.withResult r).withPorts p) = f c) (hf : ∀ c, P α (f c)) :
    P α (get >>= f)
  note {n : Engine → Notes} (hsame : ∀ c r p, n ((c.withResult r).withPorts p) = n c) (hresult : ∀ c, (n c).result = id) :
    P PUnit (modify fun c => c.noted (n c))
  mismatch : P Unit (Machine.raise .checksum)

section
variable {P : (α : Type) → Cmd α → Prop} (h : Cmd.SequencerClosed P)
include h

theorem Cmd.SequencerClosed.setPState (p : PState) : P PUnit (setPState p) :=
  h.note (n := fun _ => { pstate := fun _ => p }) (fun _ _ _ => rfl) fun _ => rfl

theorem Cmd.SequencerClosed.endOfBlock : P PUnit endOfBlock :=
  h.note (n := fun c => { pstate := fun _ =>
    if c.bfinal then (if c.latch.ctrl.trailer = .none then .done else .trailer) else .hdr }) (fun _ _ _ => rfl) fun _ => rfl

theorem Cmd.SequencerClosed.storedHeader : P Unit storedHeader :=
  h.bind h.alignBits fun _ => h.bind (h.getBits 16) fun len => h.bind (h.getBits 16) fun _ => h.bind (h.require _ rfl) fun _ =>
    h.note (n := fun _ => { srem := fun _ => len.setWidth 16, pstate := fun _ => .stored }) (fun _ _ _ => rfl) fun _ => rfl

theorem Cmd.SequencerClosed.readHeader : P Unit readHeader := by
  refine h.bind (h.getBits 1) fun f => h.bind (h.note (n := fun _ => { bfinal := fun _ => f.getLsbD 0 })
    (fun _ _ _ => rfl) fun _ => rfl) fun _ => ?_
  refine h.bind (h.getBits 2) fun t => h.bind (h.note (n := fun _ => { btype := fun _ => t.setWidth 2 })
    (fun _ _ _ => rfl) fun _ => rfl) fun _ => ?_
  split
  · exact h.storedHeader
  · exact h.bind h.loadFixed fun _ => h.setPState _
  · exact h.bind h.dynamicHeader fun _ => h.setPState _
  · exact h.raise rfl

theorem Cmd.SequencerClosed.matchStep (i : Nat) : P Unit (matchStep i) := by
  refine h.bind (h.getBits _) fun le => h.bind (h.decodeSymbol .dt) fun ds => h.bind (h.require _ rfl) fun _ => ?_
  refine h.bind (h.getBits _) fun de => h.read_bind (fun _ _ _ => rfl) fun c => h.bind (h.require _ rfl) fun _ => ?_
  exact h.note (n := fun _ => {
    lzRem := fun _ => BitVec.ofNat 9 (lenBase.getD i 0 + le.toNat)
    lzDist := fun _ => BitVec.ofNat 16 (distBase.getD ds.toNat 0 + de.toNat), pstate := fun _ => .copy })
    (fun _ _ _ => rfl) fun _ => rfl

theorem Cmd.SequencerClosed.compared (ok : Bool) : P PUnit (require ok .checksum >>= fun _ => Machine.setPState .done) := by
  refine h.bind ?_ fun _ => h.setPState _
  unfold Machine.require
  split
  · exact h.pure ()
  · exact h.mismatch

theorem Cmd.SequencerClosed.readTrailer : P Unit readTrailer := by
  refine h.bind h.alignBits fun _ => h.read_bind (fun _ _ _ => rfl) fun c => ?_
  split
  · refine h.bind h.getBytes4 fun (b0, b1, b2, b3) => h.read_bind (fun _ _ _ => rfl) fun c => ?_
    exact h.compared _
  · refine h.bind h.getBytes4 fun (b0, b1, b2, b3) => h.bind h.getBytes4 fun _ => h.read_bind (fun _ _ _ => rfl) fun c => ?_
    exact h.compared _
end

/-! ### The actions of the sequencer -/

/-- `Q` holds of an action of the sequencer, made of pieces with `P` and of `Emit`, that returns how many bytes it emitted. -/
structure Cmd.ActionRules (P : (α : Type) → Cmd α → Prop) (Q : Cmd Nat → Prop) : Prop where
  closed : Cmd.SequencerClosed P
  mute {α : Type} {x : Cmd α} (hx : P α x) : Q (x >>= fun _ => pure 0)
  front {α : Type} {x : Cmd α} {f : α → Cmd Nat} (hx : P α x) (hf : ∀ a, Q (f a)) : Q (x >>= f)
  emits {x : Cmd PUnit} (b : Byte) (hx : P PUnit x) (hret : ∀ c, ∃ c', x.run c = .ok ⟨⟩ c') :
    Q (emit b >>= fun _ => x >>= fun _ => pure 1)
  read_bind {f : Engine → Cmd Nat} (hsame : ∀ c r p, f ((c.withResult r).withPorts p) = f c) (hf : ∀ c, Q (f c)) :
    Q (get >>= f)
  raise {e : Err} (he : e.fromStep = true) : Q (Machine.raise e)

section
variable {P : (α : Type) → Cmd α → Prop} {Q : Cmd Nat → Prop} (h : Cmd.ActionRules P Q)
include h

theorem Cmd.ActionRules.pure_zero : Q (pure 0) := by
  have hq := h.mute (h.closed.pure ())
  rwa [pure_bind] at hq

theorem Cmd.ActionRules.storedStep : Q storedStep := by
  refine h.read_bind (fun _ _ _ => rfl) fun c => ?_
  split
  · exact h.mute h.closed.endOfBlock
  · refine h.front (h.closed.getBits 8) fun b => h.emits (b.setWidth 8) ?_ ?_
    · exact h.closed.note (n := fun _ => { srem := fun v => v - 1 }) (fun _ _ _ => rfl) fun _ => rfl
    · exact fun c => ⟨_, rfl⟩

theorem Cmd.ActionRules.huffStep : Q huffStep := by
  refine h.front (h.closed.decodeSymbol .lt) fun sym => ?_
  split
  · have hq := h.emits (sym.setWidth 8) (h.closed.pure PUnit.unit) fun c => ⟨c, rfl⟩
    simp only [pure_bind] at hq
    exact hq
  · split
    · exact h.mute h.closed.endOfBlock
    · split
      · exact h.mute (h.closed.matchStep _)
      · exact h.raise rfl

theorem Cmd.ActionRules.copyStep : Q copyStep := by
  refine h.read_bind (fun _ _ _ => rfl) fun c => ?_
  split
  · exact h.mute (h.closed.setPState _)
  · refine h.front (h.closed.histRead _) fun b => h.emits b ?_ ?_
    · exact h.closed.note (n := fun _ => { lzRem := fun v => v - 1 }) (fun _ _ _ => rfl) fun _ => rfl
    · exact fun c => ⟨_, rfl⟩

theorem Cmd.ActionRules.stepOnce : Q stepOnce := by
  refine h.read_bind (fun _ _ _ => rfl) fun c => ?_
  cases c.pstate with
  | hdr => exact h.mute h.closed.readHeader
  | stored => exact h.storedStep
  | huff => exact h.huffStep
  | copy => exact h.copyStep
  | trailer => exact h.mute h.closed.readTrailer
  | idle | done | dataError | checksumError | sourceExhausted => exact h.pure_zero
end

end Sys2Proof.Machine
end

section
/-! SUPPORT. Pieces of a command do not see the registers of `Notes`, and no action of the sequencer sees `RESULT`. With it the commands
`COPY`, `GET` and `PUT` against each other and against the history (43_window.md R194, R196, R197). At the end the settled statements. -/

namespace Sys2Proof.Machine

/-! ### Pieces that do not see a change of the engine -/

/-- The end of a piece of a command, its engine changed by `g`. -/
def mapEnd {α : Type} (g : Engine → Engine) : EStateM.Result Stop Engine α → EStateM.Result Stop Engine α
  | .ok a c => .ok a (g c)
  | .error stop c => .error stop (g c)

/-- A piece that ends the same way before and after the change `g`, and leaves what `g` changed as it is. -/
structure Cmd.Commutes {α : Type} (g : Engine → Engine) (x : Cmd α) : Prop where
  run : ∀ c, x.run (g c) = mapEnd g (x.run c)

section
variable {α β : Type} {g : Engine → Engine} {x : Cmd α} {f : α → Cmd β} {c c' : Engine}

theorem Cmd.Commutes.run_of_ok {a : α} (hx : x.Commutes g) (h : x.run c = .ok a c') : x.run (g c) = .ok a (g c') := by
  rw [hx.run, h]
  rfl

theorem Cmd.Commutes.run_of_error {stop : Stop} (hx : x.Commutes g) (h : x.run c = .error stop c') :
    x.run (g c) = .error stop (g c') := by
  rw [hx.run, h]
  rfl

/-- What returns after the change returned before it. -/
theorem Cmd.Commutes.exists_of_ok {a : α} (hx : x.Commutes g) (h : x.run (g c) = .ok a c') :
    ∃ c₁, x.run c = .ok a c₁ ∧ c' = g c₁ := by
  rw [hx.run] at h
  cases hrun : x.run c with
  | ok b c₁ =>
    rw [hrun] at h
    cases h
    exact ⟨c₁, rfl, rfl⟩
  | error stop c₁ =>
    rw [hrun] at h
    cases h

theorem Cmd.Commutes.bind (hx : x.Commutes g) (hf : ∀ a, (f a).Commutes g) : (x >>= f).Commutes g where
  run c := by
    rw [EStateM.run_bind, EStateM.run_bind, hx.run]
    cases x.run c with
    | ok a c' => exact (hf a).run c'
    | error stop c' => rfl

theorem Cmd.Commutes.get_bind {f : Engine → Cmd α} (hsame : ∀ c, f (g c) = f c) (hf : ∀ c, (f c).Commutes g) :
    (get >>= f).Commutes g where
  run c := (congrArg (fun z : Cmd α => z.run (g c)) (hsame c)).trans ((hf c).run c)

theorem Cmd.Commutes.ite {p : Prop} [Decidable p] {y : Cmd α} (hx : x.Commutes g) (hy : y.Commutes g) :
    (if p then x else y).Commutes g := by
  split
  · exact hx
  · exact hy

theorem commutes_pure (a : α) : (pure a : Cmd α).Commutes g := ⟨fun _ => rfl⟩

theorem commutes_throw (stop : Stop) : (throw stop : Cmd α).Commutes g := ⟨fun _ => rfl⟩

theorem commutes_modify {m : Engine → Engine} (h : ∀ c, m (g c) = g (m c)) : (modify m : Cmd PUnit).Commutes g :=
  ⟨fun c => congrArg (EStateM.Result.ok (ε := Stop) PUnit.unit) (h c)⟩
end

section
variable (n : Notes)

theorem commutes_pullByte : pullByte.Commutes (·.noted n) where
  run c := by
    have hports : (c.noted n).ports = c.ports := rfl
    rw [pullByte_run, pullByte_run, hports]
    rcases c.ports.pullQ with _ | ⟨b | _, rest⟩
    · rfl
    · cases h : c.ports.pullEnded <;> simp only [h] <;> rfl
    · rfl

theorem commutes_memRead (a : Addr) : (memRead a).Commutes (·.noted n) := by
  refine .get_bind (fun _ => rfl) fun c => .ite ?_ (commutes_throw _)
  cases c.mem.read a.toNat with
  | some b => exact commutes_pure b
  | none => exact commutes_throw _

theorem commutes_fetchSourceByte : fetchSourceByte.Commutes (·.noted n) := by
  have hcount (b : Byte) :
      (modify (fun c : Engine => { c with srcPos := c.srcPos + 1 }) >>= fun _ => pure b : Cmd Byte).Commutes (·.noted n) :=
    (commutes_modify (g := (·.noted n)) fun _ => rfl).bind fun _ => commutes_pure b
  have hresident : residentByte.Commutes (·.noted n) :=
    .get_bind (fun _ => rfl) fun _ => .ite (commutes_throw _) (commutes_memRead n _)
  exact .get_bind (fun _ => rfl) fun _ => .ite ((commutes_pullByte n).bind hcount) (hresident.bind hcount)

theorem commutes_getBit : getBit.Commutes (·.noted n) := by
  refine .bind (.get_bind (fun _ => rfl) fun _ => .ite ?_ (commutes_pure _)) fun _ => ⟨fun _ => rfl⟩
  exact (commutes_fetchSourceByte n).bind fun _ => commutes_modify fun _ => rfl

theorem commutes_buildTree (s : Slot) (ls : List (BitVec 4)) : (buildTree s ls).Commutes (·.noted n) where
  run c := by
    rw [buildTree_run, buildTree_run]
    by_cases h : overSubscribed ls = true
    · rw [if_pos h, if_pos h]
      cases s <;> rfl
    · rw [if_neg h, if_neg h]
      cases s <;> rfl

theorem commutes_readDest (pos : Word) : (readDest pos).Commutes (·.noted n) where
  run c := by
    have hports : (c.noted n).ports = c.ports := rfl
    rw [readDest_run, readDest_run, hports]
    cases c.ports.readDestQ <;> rfl

/-- The bit reader, the Huffman engine, the dynamic header and reading history do not see the registers of `Notes`. -/
theorem closed_commutes : Cmd.Closed fun _ x => x.Commutes (·.noted n) where
  pure := commutes_pure
  bind := .bind
  stop _ := commutes_throw _
  get_bind hsame hf := .get_bind (fun c => hsame c n c.ports) hf
  getBit := commutes_getBit n
  alignBits := commutes_modify fun _ => rfl
  lenWrite _ _ := commutes_modify fun _ => rfl
  buildTree := commutes_buildTree n
  readDest := commutes_readDest n

theorem commutes_memWrite (a : Addr) (b : Byte) : (memWrite a b).Commutes (·.noted n) where
  run c := by
    rw [memWrite_run, memWrite_run]
    by_cases h : c.platform.backs a = true
    · rw [if_pos h, if_pos (by exact h)]
      rfl
    · rw [if_neg h, if_neg (by exact h)]
      rfl

theorem commutes_emitResident (b : Byte) : (emitResident b).Commutes (·.noted n) :=
  .get_bind (fun _ => rfl) fun _ => .ite ((commutes_memWrite n _ b).bind fun _ => commutes_modify fun _ => rfl)
    (commutes_pure ())

theorem commutes_emitPush (b : Byte) : (emitPush b).Commutes (·.noted n) := by
  refine .get_bind (fun _ => rfl) fun c => .ite ⟨fun c => ?_⟩ (commutes_pure ())
  rw [pushByte_run, pushByte_run]
  by_cases h : c.ports.pushReady = 0
  · rw [if_pos h, if_pos (by exact h)]
    rfl
  · rw [if_neg h, if_neg (by exact h)]
    rfl

/-- `Emit` does not see the registers of `Notes`. -/
theorem commutes_emit (b : Byte) : (emit b).Commutes (·.noted n) :=
  (commutes_emitResident n b).bind fun _ => (commutes_emitPush n b).bind fun _ =>
    .bind (.get_bind (fun _ => rfl) fun _ => .ite (commutes_pure ()) (commutes_modify fun _ => rfl)) fun _ =>
    (commutes_modify (g := (·.noted n)) fun _ => rfl).bind fun _ => commutes_modify fun _ => rfl

theorem commutes_copyLoop (d k : Nat) : (copyLoop d k).Commutes (·.noted n) := by
  induction k with
  | zero => exact commutes_pure ()
  | succ k ih => exact ((closed_commutes n).histRead d).bind fun b => (commutes_emit n b).bind fun _ => ih
end

/-- No action of the sequencer sees `RESULT`. -/
theorem sequencerClosed_commutes (r : Word) : Cmd.SequencerClosed fun _ x => x.Commutes (·.withResult r) where
  toClosed := closed_commutes { result := fun _ => r }
  read_bind hsame hf := .get_bind (fun c => hsame c r c.ports) hf
  note {n} hsame hresult := commutes_modify fun c => by
    have hsame' : n (c.withResult r) = n c := hsame c r c.ports
    rw [hsame']
    simp only [Engine.noted, Engine.withResult, hresult, id]
  mismatch := commutes_throw _

theorem actionRules_commutes (r : Word) :
    Cmd.ActionRules (fun _ x => x.Commutes (·.withResult r)) fun x => x.Commutes (·.withResult r) where
  closed := sequencerClosed_commutes r
  mute hx := hx.bind fun _ => commutes_pure 0
  front := .bind
  emits b hx _ := (commutes_emit { result := fun _ => r } b).bind fun _ => hx.bind fun _ => commutes_pure 1
  read_bind hsame hf := .get_bind (fun c => hsame c r c.ports) hf
  raise _ := commutes_throw _

theorem commutes_stepOnce (r : Word) : stepOnce.Commutes (·.withResult r) := (actionRules_commutes r).stepOnce

/-! ### Emitting and reading history, once they return -/

theorem emit_eq_ok {b : Byte} {c c' : Engine} (h : (emit b).run c = .ok () c') : c' = c.emitted b :=
  (emit_wp (Q := fun _ c' => c' = c.emitted b) (E := fun _ _ => True) rfl).ok _ c' h

theorem Engine.emitted_withResult (c : Engine) (r : Word) (b : Byte) :
    (c.withResult r).emitted b = (c.emitted b).withResult r := rfl

/-- Reading history changes nothing but the ports. -/
theorem histRead_after (d : Nat) (c : Engine) : ∃ p, (histRead d).after c = c.withPorts p := by
  rw [histRead, Cmd.after_get_bind]
  refine Cmd.after_ite (P := fun c' => ∃ p, c' = c.withPorts p) (fun _ => ?_) fun _ =>
    Cmd.after_ite (P := fun c' => ∃ p, c' = c.withPorts p) (fun _ => ?_) fun _ => ?_
  · exact ⟨c.ports, memRead_after _ c⟩
  · refine ⟨c.ports, ?_⟩
    rw [Cmd.after, ringRead_run]
    cases c.ring.read (c.ringPlace d) <;> rfl
  · rw [Cmd.after, readDest_run]
    cases c.ports.readDestQ <;> exact ⟨_, rfl⟩

theorem histRead_eq_ok {d : Nat} {b : Byte} {c c' : Engine} (h : (histRead d).run c = .ok b c') : ∃ p, c' = c.withPorts p := by
  rw [← Cmd.after_of_ok h]
  exact histRead_after d c

theorem copyLoop_add (d m n : Nat) : copyLoop d (m + n) = copyLoop d m >>= fun _ => copyLoop d n := by
  induction m with
  | zero => rw [Nat.zero_add, copyLoop, pure_bind]
  | succ m ih => rw [Nat.add_right_comm, copyLoop, copyLoop, ih]; simp only [bind_assoc]

/-- A copy that returns has moved the resident cursor by its length. -/
theorem copyLoop_dstPos {d n : Nat} {c c' : Engine} (h : (copyLoop d n).run c = .ok () c') :
    c'.latch = c.latch ∧ c'.err = c.err ∧
      (c.latch.ctrl.dstRes = true → c'.dstPos = c.dstPos + BitVec.ofNat 32 n) := by
  induction n generalizing c with
  | zero =>
    cases h
    exact ⟨rfl, rfl, fun _ => (BitVec.add_zero _).symm⟩
  | succ n ih =>
    obtain ⟨b, c₁, hread, hrest⟩ := Cmd.bind_eq_ok h
    obtain ⟨_, c₂, hemit, hloop⟩ := Cmd.bind_eq_ok hrest
    obtain ⟨p, rfl⟩ := histRead_eq_ok hread
    obtain rfl := emit_eq_ok hemit
    obtain ⟨hl, he, hpos⟩ := ih hloop
    refine ⟨hl, he, fun hres => (hpos hres).trans ?_⟩
    have hone : ((c.withPorts p).emitted b).dstPos = c.dstPos + 1 := if_pos hres
    rw [hone, Nat.add_comm n 1, BitVec.ofNat_add, BitVec.add_assoc]
    rfl

/-- What is written to `RESULT` last counts. -/
theorem State.setResult_complete {s u : State} {c : Engine} {r : Word} (hu : u = s.complete (c.withResult r)) (v : Word) :
    ({ u with toEngine := { u.toEngine with result := v } } : State) = s.complete (c.withResult v) := by
  subst hu
  rfl

theorem Engine.cleared_of_err {c : Engine} (h : c.err = .none) : c.cleared = c := by rw [Engine.cleared, ← h]

/-! ### `GET`, `PUT` and `COPY` that report no error -/

theorem Err.ne_none_of_fromStep {e : Err} (h : e.fromStep = true) : e ≠ .none := by
  rintro rfl
  cases h

/-- Every error that a piece raises has a number. -/
def Cmd.Named {α : Type} (x : Cmd α) : Prop := ∀ c, x.wp (fun _ _ => True) (fun e _ => e ≠ .none) c

theorem Cmd.Quiet.named {α : Type} {x : Cmd α} (hx : x.Quiet) : x.Named := fun c =>
  (hx.wp c).mono (fun _ _ _ => trivial) fun _ _ h => Err.ne_none_of_fromStep h.1

section
variable {α β : Type} {x : Cmd α} {f : α → Cmd β}

theorem Cmd.Named.bind (hx : x.Named) (hf : ∀ a, (f a).Named) : (x >>= f).Named := fun c =>
  Cmd.wp_bind ((hx c).mono (fun a c' _ => hf a c') fun _ _ => id)

theorem Cmd.Named.get_bind {g : Engine → Cmd α} (hg : ∀ c, (g c).Named) : (get >>= g).Named := fun c => Cmd.wp_get_bind (hg c c)
end

theorem named_pure {α : Type} (a : α) : (pure a : Cmd α).Named := fun _ => Cmd.wp_pure trivial

theorem named_require (ok : Bool) {e : Err} (h : e ≠ .none) : (require ok e).Named := fun _ =>
  wp_require (fun _ => trivial) fun _ => h

theorem named_requireStream : requireStream.Named := fun _ => wp_requireStream (fun _ => trivial) fun _ => nofun

theorem named_emit (b : Byte) : (emit b).Named := fun _ => emit_wp trivial

theorem named_copyLoop (d n : Nat) : (copyLoop d n).Named := by
  induction n with
  | zero => exact named_pure ()
  | succ n ih => exact (quiet_histRead d).named.bind fun b => (named_emit b).bind fun _ => ih

theorem named_get (d : BitVec 16) : (bodyOf (.get d)).Named :=
  named_requireStream.bind fun _ => .get_bind fun _ => (named_require _ (by decide)).bind fun _ =>
    (quiet_histRead _).named.bind fun _ => named_pure _

theorem named_put (b : Byte) : (bodyOf (.put b)).Named :=
  named_requireStream.bind fun _ => .get_bind fun _ => (named_require _ (by decide)).bind fun _ =>
    (named_emit b).bind fun _ => named_pure _

theorem named_copy (n : BitVec 9) (d : BitVec 16) : (bodyOf (.copy n d)).Named :=
  named_requireStream.bind fun _ => .get_bind fun _ => (named_require _ (by decide)).bind fun _ => (named_require _ (by decide)).bind fun _ =>
    (named_copyLoop _ _).bind fun _ => named_pure _

/-- A command that completed without error returned from its body. -/
theorem exec_eq_next_ok {i : Instr} {s t : State} (h : exec i s = .next t) (hok : t.ok) (hnamed : (bodyOf i).Named) :
    i.wf = true ∧ ∃ r c, (bodyOf i).run s.toEngine.cleared = .ok r c ∧ t = s.complete { c with result := r.getD c.result } ∧
      c.err = .none := by
  obtain ⟨hbusy, herr⟩ := hok
  rcases exec_eq_next h with ⟨-, rfl⟩ | ⟨hwf, ⟨r, c, hr, rfl⟩ | ⟨e, c, hr, rfl⟩ | ⟨w, c, hr, rfl⟩⟩
  · cases herr
  · exact ⟨hwf, r, c, hr, rfl, herr⟩
  · exact absurd herr ((hnamed _).raise e c hr)
  · cases hbusy

theorem ne_idle_of_stream_ok {x : Cmd (Option Word)} {c c' : Engine} {r : Option Word}
    (h : (requireStream >>= fun _ => x).run c = .ok r c') : c.pstate ≠ .idle := by
  intro hidle
  simp [hidle] at h

theorem exec_get_ok {s t : State} {d : BitVec 16} (h : exec (.get d) s = .next t) (hok : t.ok) :
    s.pstate ≠ .idle ∧ s.toEngine.covered d.toNat = true ∧ ∃ b p,
      (histRead d.toNat).run s.toEngine.cleared = .ok b (s.toEngine.cleared.withPorts p) ∧
      t = s.complete ((s.toEngine.cleared.withPorts p).withResult (b.setWidth 32)) := by
  obtain ⟨-, r, c, hrun, rfl, -⟩ := exec_eq_next_ok h hok (named_get d)
  have hs : s.pstate ≠ .idle := ne_idle_of_stream_ok (c := s.toEngine.cleared) hrun
  have hbody : (getBody d.toNat).run s.toEngine.cleared = .ok r c := (streamBody_run hs).symm.trans hrun
  rw [getBody_run] at hbody
  split at hbody
  · next hcov =>
    cases hread : (histRead d.toNat).run s.toEngine.cleared with
    | ok b c' =>
      rw [hread] at hbody
      obtain ⟨p, rfl⟩ := histRead_eq_ok hread
      cases hbody
      exact ⟨hs, hcov, b, p, rfl, rfl⟩
    | error e c' =>
      rw [hread] at hbody
      cases hbody
  · cases hbody

theorem exec_put_ok {s t : State} {b : Byte} (h : exec (.put b) s = .next t) (hok : t.ok) :
    s.pstate ≠ .idle ∧ ¬ (s.latch.ctrl.dstRes = true ∧ s.dstPos = s.latch.dstLen) ∧
      (emit b).run s.toEngine.cleared = .ok () (s.toEngine.cleared.emitted b) ∧
      t = s.complete ((s.toEngine.cleared.emitted b).withResult 0) := by
  obtain ⟨-, r, c, hrun, rfl, -⟩ := exec_eq_next_ok h hok (named_put b)
  have hs : s.pstate ≠ .idle := ne_idle_of_stream_ok (c := s.toEngine.cleared) hrun
  have hbody : (putBody b).run s.toEngine.cleared = .ok r c := (streamBody_run hs).symm.trans hrun
  rw [putBody_run] at hbody
  split at hbody
  · cases hbody
  · next hroom =>
    cases hemit : (emit b).run s.toEngine.cleared with
    | ok _ c' =>
      rw [hemit] at hbody
      cases hbody
      obtain rfl := emit_eq_ok hemit
      exact ⟨hs, hroom, rfl, rfl⟩
    | error e c' =>
      rw [hemit] at hbody
      cases hbody

theorem exec_copy_ok {s t : State} {n : BitVec 9} {d : BitVec 16} (h : exec (.copy n d) s = .next t) (hok : t.ok) :
    (Instr.copy n d).wf = true ∧ s.pstate ≠ .idle ∧ s.toEngine.covered d.toNat = true ∧
      ¬ (s.latch.ctrl.dstRes = true ∧ s.toEngine.room < n.toNat) ∧ ∃ c,
      (copyLoop d.toNat n.toNat).run s.toEngine.cleared = .ok () c ∧ t = s.complete (c.withResult (n.setWidth 32)) := by
  obtain ⟨hwf, r, c, hrun, rfl, -⟩ := exec_eq_next_ok h hok (named_copy n d)
  have hs : s.pstate ≠ .idle := ne_idle_of_stream_ok (c := s.toEngine.cleared) hrun
  have hbody : (copyBody n d.toNat).run s.toEngine.cleared = .ok r c := (streamBody_run hs).symm.trans hrun
  rw [copyBody_run] at hbody
  split at hbody
  · next hcov =>
    split at hbody
    · cases hbody
    · next hroom =>
      cases hloop : (copyLoop d.toNat n.toNat).run s.toEngine.cleared with
      | ok _ c' =>
        rw [hloop] at hbody
        cases hbody
        exact ⟨hwf, hs, hcov, hroom, _, rfl, rfl⟩
      | error e c' =>
        rw [hloop] at hbody
        cases hbody
  · cases hbody

/-- The next state of a `COPY` that meets no obstacle. -/
theorem exec_copy_of_loop {s : State} {n : BitVec 9} {d : BitVec 16} {c : Engine} (hwf : (Instr.copy n d).wf = true)
    (hs : s.pstate ≠ .idle) (hcov : s.toEngine.covered d.toNat = true)
    (hroom : ¬ (s.latch.ctrl.dstRes = true ∧ s.toEngine.room < n.toNat))
    (hloop : (copyLoop d.toNat n.toNat).run s.toEngine.cleared = .ok () c) :
    exec (.copy n d) s = .next (s.complete (c.withResult (n.setWidth 32))) := by
  refine exec_of_ok (i := .copy n d) (r := some (n.setWidth 32)) (c := c) hwf ((streamBody_run hs).trans ?_)
  exact (copyBody_run n _ _).trans ((if_pos hcov).trans ((if_neg hroom).trans (by rw [hloop])))

theorem wf_copy_iff {n : BitVec 9} {d : BitVec 16} : (Instr.copy n d).wf = true ↔ 1 ≤ n.toNat ∧ n.toNat ≤ 258 := by
  simp [Instr.wf, Nat.one_le_iff_ne_zero]

/-! ### Copies from the resident slice and the ring: 43_window.md R197 -/

theorem Engine.accepts.hasRoom {c : Engine} {n : Nat} (h : c.accepts n) (hi : c.Inv) : c.HasRoom n :=
  hi.hasRoom fun hres => (h.1 hres).1

theorem Engine.accepts.emitted {c : Engine} {n : Nat} (h : c.accepts (n + 1)) (b : Byte) : (c.emitted b).accepts n := by
  refine ⟨fun hres => ?_, fun hpush => ?_⟩
  · have hres' : c.latch.ctrl.dstRes = true := hres
    obtain ⟨hroom, hbacks⟩ := h.1 hres'
    have hpos : (c.emitted b).dstPos = c.dstPos + 1 := if_pos hres'
    refine ⟨?_, fun k hk => ?_⟩
    · have hroom' : (c.emitted b).room = (c.latch.dstLen - (c.dstPos + 1)).toNat := congrArg (fun p => (c.latch.dstLen - p).toNat) hpos
      rw [Engine.room] at hroom
      rw [hroom']
      bv_omega
    · have haddr : c.latch.dstBase + (c.dstPos + 1) + BitVec.ofNat 32 k = c.latch.dstBase + c.dstPos + BitVec.ofNat 32 (k + 1) := by
        rw [Nat.add_comm k 1, BitVec.ofNat_add]
        ac_rfl
      rw [hpos]
      exact haddr ▸ hbacks (k + 1) (Nat.succ_lt_succ hk)
  · have hpush' : c.latch.ctrl.dstPush = true := hpush
    have hready := h.2 hpush'
    have hports : (c.emitted b).ports.pushReady = c.ports.pushReady - 1 := congrArg Ports.pushReady (if_pos hpush')
    rw [hports]
    omega

theorem add_one_mod_eq {d : Nat} (hd : 1 ≤ d) (j : Nat) : (j + 1) % d = if j % d + 1 = d then 0 else j % d + 1 := by
  have hj := Nat.div_add_mod j d
  have hlt := Nat.mod_lt j hd
  split
  · next h =>
    have hmul : j + 1 = d * (j / d + 1) := by rw [Nat.mul_add, Nat.mul_one]; omega
    rw [hmul, Nat.mul_mod_right]
  · next h =>
    have hadd : j + 1 = d * (j / d) + (j % d + 1) := by omega
    rw [hadd, Nat.mul_add_mod, Nat.mod_eq_of_lt (by omega)]

/-- The resident slice serves a distance. -/
def Engine.ResidentServes (c : Engine) (d : Nat) : Prop := c.latch.ctrl.dstRes = true ∧ d ≤ c.dstPos.toNat

/-- The ring holds the byte at a distance. -/
def Engine.RingServes (c : Engine) (d : Nat) : Prop := c.latch.ringCap ≠ 0 ∧ d ≤ c.ringFill.toNat

theorem Engine.histByte_of_resident {c : Engine} {d : Nat} (h : c.ResidentServes d) :
    c.histByte d = if c.platform.backs (c.latch.dstBase + c.dstPos - BitVec.ofNat 32 d) then
      c.mem.read (c.latch.dstBase + c.dstPos - BitVec.ofNat 32 d).toNat else none := by
  rw [Engine.histByte, if_pos (by simpa [Engine.ResidentServes, Engine.RingServes] using h)]

theorem Engine.histByte_of_ring {c : Engine} {d : Nat} (hres : ¬ c.ResidentServes d) (h : c.RingServes d) :
    c.histByte d = c.ring.read (c.ringPlace d) := by
  rw [Engine.histByte, if_neg (by simpa [Engine.ResidentServes, Engine.RingServes] using hres),
    if_pos (by simpa [Engine.ResidentServes, Engine.RingServes] using h)]

/-- A history byte comes from the resident slice or from the ring. -/
theorem Engine.histByte_isSome {c : Engine} {d : Nat} (h : (c.histByte d).isSome = true) :
    c.ResidentServes d ∨ c.RingServes d := by
  by_contra hno
  obtain ⟨hres, hring⟩ := not_or.mp hno
  rw [Engine.histByte, if_neg (by simpa [Engine.ResidentServes, Engine.RingServes] using hres),
    if_neg (by simpa [Engine.ResidentServes, Engine.RingServes] using hring)] at h
  cases h

section
variable {c : Engine} {n d e : Nat} (hi : c.Inv) (hacc : c.accepts (n + 1)) (b : Byte)
include hi hacc

theorem Engine.toNat_emitted_dstPos (hres : c.latch.ctrl.dstRes = true) : (c.emitted b).dstPos.toNat = c.dstPos.toNat + 1 :=
  (c.toNat_counted_dstPos b (hacc.hasRoom hi)).trans (if_pos hres)

theorem Engine.residentServes_emitted_iff : (c.emitted b).ResidentServes (e + 1) ↔ c.ResidentServes e := by
  refine and_congr_right fun hres => ?_
  rw [c.toNat_emitted_dstPos hi hacc b hres]
  exact Nat.add_le_add_iff_right

/-- One byte emitted moves the resident history one place further. -/
theorem Engine.histByte_emitted_of_resident (h : c.ResidentServes e) :
    (c.emitted b).histByte (e + 1) = if e = 0 then some b else c.histByte e := by
  have haddr : (c.emitted b).latch.dstBase + (c.emitted b).dstPos - BitVec.ofNat 32 (e + 1) =
      c.latch.dstBase + c.dstPos - BitVec.ofNat 32 e := by
    have hpos : (c.emitted b).dstPos = c.dstPos + 1 := if_pos h.1
    rw [hpos, BitVec.ofNat_add, ← add_assoc]
    exact add_sub_add_right_eq_sub _ _ _
  rw [Engine.histByte_of_resident ((c.residentServes_emitted_iff hi hacc b).mpr h), c.histByte_of_resident h]
  have hread := c.read_counted b h.1 h.2
  change (c.emitted b).mem.read ((c.emitted b).latch.dstBase + (c.emitted b).dstPos - BitVec.ofNat 32 (e + 1)).toNat = _ at hread
  rw [hread, haddr]
  by_cases hzero : e = 0
  · subst hzero
    have hbacks := (hacc.1 h.1).2 0 n.succ_pos
    rw [if_pos rfl, if_pos rfl]
    have hbacked : c.platform.backs (c.latch.dstBase + c.dstPos - BitVec.ofNat 32 0) = true := by simpa using hbacks
    exact if_pos hbacked
  · rw [if_neg hzero, if_neg hzero]
    rfl

/-- One byte emitted moves the ring one place further, as long as the ring does not drop the byte. -/
theorem Engine.histByte_emitted_of_ring (hres : ¬ c.ResidentServes e) (h : c.RingServes (e + 1)) :
    (c.emitted b).histByte (e + 1) = if e = 0 then some b else c.histByte e := by
  obtain ⟨hcap, hfill⟩ := h
  have hle := hi.ringFill_le
  have hserves : (c.emitted b).RingServes (e + 1) := by
    refine ⟨hcap, ?_⟩
    rw [c.emitted_eq, if_neg hcap, (c.counted b).toNat_ringWritten_ringFill]
    exact Nat.le_min.mpr ⟨Nat.le_succ_of_le hfill, hfill.trans hle⟩
  have hres' : ¬ (c.emitted b).ResidentServes (e + 1) := (c.residentServes_emitted_iff hi hacc b).not.mpr hres
  rw [Engine.histByte_of_ring hres' hserves, Engine.histByte_of_ring hres ⟨hcap, Nat.le_of_succ_le hfill⟩, c.emitted_eq,
    if_neg hcap]
  exact (c.counted b).read_ringWritten b hcap (hi.ringIdx_lt hcap) (Nat.lt_of_succ_le (hfill.trans hle))

theorem Engine.histByte_emitted (he : e < d) (hd : c.ResidentServes d ∨ c.RingServes d) :
    (c.emitted b).histByte (e + 1) = if e = 0 then some b else c.histByte e := by
  by_cases hres : c.ResidentServes e
  · exact c.histByte_emitted_of_resident hi hacc b hres
  · refine c.histByte_emitted_of_ring hi hacc b hres ?_
    rcases hd with hd | hd
    · exact absurd ⟨hd.1, he.le.trans hd.2⟩ hres
    · exact ⟨hd.1, (Nat.succ_le_of_lt he).trans hd.2⟩

/-- The next bytes of a copy, once its first is emitted, are those of a copy from there on. -/
theorem Engine.copyBytes_succ (hd : 1 ≤ d) (hserves : c.ResidentServes d ∨ c.RingServes d) (hb : c.histByte d = some b) (k : Nat) :
    c.copyBytes d (k + 1) = b :: (c.emitted b).copyBytes d k := by
  rw [Engine.copyBytes, List.range_succ_eq_map, List.map_cons, List.map_map, Nat.zero_mod, Nat.sub_zero, hb]
  refine congrArg (b :: ·) (List.map_congr_left fun j _ => ?_)
  have hlt := Nat.mod_lt j hd
  have hshift : d - j % d = (d - j % d - 1) + 1 := by omega
  rw [Function.comp_apply, hshift, c.histByte_emitted hi hacc b (d := d) (by omega) hserves, Nat.succ_eq_add_one]
  rw [add_one_mod_eq hd]
  by_cases hwrap : j % d + 1 = d
  · rw [if_pos hwrap, Nat.sub_zero, hb, if_pos (by omega)]
  · rw [if_neg hwrap, if_neg (by omega), Nat.sub_sub]
end

/-- A copy from the resident slice or the ring emits the bytes it copies. -/
theorem copyLoop_run_of_histBytes {c : Engine} {d n : Nat} (hd : 1 ≤ d) (hi : c.Inv) (hacc : c.accepts n)
    (hhist : ∀ j, j < n → j < d → (c.histByte (d - j)).isSome = true) :
    (copyLoop d n).run c = .ok () ((c.copyBytes d n).foldl Engine.emitted c) := by
  induction n generalizing c with
  | zero => rfl
  | succ n ih =>
    have hfirst : (c.histByte d).isSome = true := hhist 0 n.succ_pos hd
    obtain ⟨b, hb⟩ := Option.isSome_iff_exists.mp hfirst
    have hserves := Engine.histByte_isSome hfirst
    have hrest := ih (hi.emitted (hacc.hasRoom hi) b) (hacc.emitted b) fun j hj hjd => by
      have hshift : d - j = (d - (j + 1)) + 1 := by omega
      rw [hshift, c.histByte_emitted hi hacc b (d := d) (by omega) hserves]
      split
      · rfl
      · exact hhist (j + 1) (by omega) (by omega)
    rw [copyLoop_succ_run, histRead_run_of_histByte hb]
    simp only [hacc.emit_run]
    rw [hrest, c.copyBytes_succ hi hacc b hd hserves hb]
    rfl

/-! ### Copies from the readDest port: 43_window.md R194, R196 -/

/-- Emitting changes the ports by a push at most, whatever they are, and the rest whatever the ports are. -/
theorem foldl_emitted_withPorts (bs : List Byte) (c : Engine) (p q : Ports) :
    (bs.foldl Engine.emitted (c.withPorts p)).withPorts q = (bs.foldl Engine.emitted c).withPorts q := by
  induction bs generalizing c p with
  | nil => rfl
  | cons b bs ih =>
    have hone : (c.withPorts p).emitted b = (c.emitted b).withPorts ((c.withPorts p).emitted b).ports := rfl
    rw [List.foldl_cons, List.foldl_cons, hone]
    exact ih _ _

theorem foldl_emitted_cleared (bs : List Byte) (c : Engine) :
    bs.foldl Engine.emitted c.cleared = (bs.foldl Engine.emitted c).cleared := by
  induction bs generalizing c with
  | nil => rfl
  | cons b bs ih => exact ih (c.emitted b)

/-- The ports after the answers `bs`, asked for from `OUT_COUNT` = `out` on and each pushed where the push port is on. -/
def Ports.answered (p : Ports) (push : Bool) (out : Word) (d : Nat) (bs rest : List Byte) : Ports :=
  { p with
    readDestQ := rest
    pushReady := if push then p.pushReady - bs.length else p.pushReady
    log := p.log ++ bs.zipIdx.flatMap fun q =>
      .readDest (out + BitVec.ofNat 32 q.2 - BitVec.ofNat 32 d) q.1 :: (if push then [.push q.1] else []) }

/-- The first answer is followed by the others, asked for one position further. -/
theorem Ports.answered_cons {p p₁ : Ports} {push : Bool} {out : Word} {d : Nat} {b : Byte} {bs rest : List Byte}
    (h : p₁ = { p with
      readDestQ := bs ++ rest
      pushReady := if push then p.pushReady - 1 else p.pushReady
      log := p.log ++ .readDest (out - BitVec.ofNat 32 d) b :: (if push then [.push b] else []) }) :
    p₁.answered push (out + 1) d bs rest = p.answered push out d (b :: bs) rest := by
  subst h
  have hindex (k : Nat) : out + 1 + BitVec.ofNat 32 k = out + BitVec.ofNat 32 (k + 1) := by
    rw [Nat.add_comm k 1, BitVec.ofNat_add, ← BitVec.add_assoc]
    rfl
  have hready : (if push then (if push then p.pushReady - 1 else p.pushReady) - bs.length
      else if push then p.pushReady - 1 else p.pushReady) =
      if push then p.pushReady - (b :: bs).length else p.pushReady := by
    cases push with
    | false => rfl
    | true => simp [Nat.sub_sub, Nat.add_comm]
  have hlater : (bs.zipIdx 1).flatMap (fun q => PortEvent.readDest (out + BitVec.ofNat 32 q.2 - BitVec.ofNat 32 d) q.1 ::
      (if push then [.push q.1] else [])) =
      bs.zipIdx.flatMap fun q => PortEvent.readDest (out + 1 + BitVec.ofNat 32 q.2 - BitVec.ofNat 32 d) q.1 ::
        (if push then [.push q.1] else []) := by
    rw [List.zipIdx_succ, List.flatMap_map]
    simp only [hindex]
  simp only [Ports.answered, hready, List.zipIdx_cons, Nat.zero_add, List.flatMap_cons, hlater, List.append_assoc,
    List.cons_append]
  simp

/-- Neither the resident slice nor the ring reaches back `d` bytes during `n` bytes. -/
structure Engine.OnlyPortReaches (c : Engine) (d n : Nat) : Prop where
  resident : c.latch.ctrl.dstRes = true → c.dstPos.toNat + n ≤ d
  ring : c.latch.ringCap = 0 ∨ n = 0 ∨ (c.ringFill.toNat < d ∧ (c.latch.ringCap.toNat < d ∨ c.ringFill.toNat + n ≤ d))

theorem Engine.OnlyPortReaches.emitted {c : Engine} {d n : Nat} (h : c.OnlyPortReaches d (n + 1)) (hd : d < 2 ^ 32)
    (b : Byte) : (c.emitted b).OnlyPortReaches d n where
  resident hres := by
    have hres' : c.latch.ctrl.dstRes = true := hres
    have hle := h.resident hres'
    have hpos : (c.emitted b).dstPos = c.dstPos + 1 := if_pos hres'
    rw [hpos]
    bv_omega
  ring := by
    refine h.ring.imp id fun hring => ?_
    obtain ⟨hfill, hor⟩ := hring.resolve_left n.succ_ne_zero
    by_cases hcap : c.latch.ringCap = 0
    · have hsame : (c.emitted b).ringFill = c.ringFill := if_pos hcap
      have hzero : (c.emitted b).latch.ringCap.toNat = 0 := by
        change c.latch.ringCap.toNat = 0
        rw [hcap]
        rfl
      rw [hsame, hzero]
      omega
    · have hnext : (c.emitted b).ringFill.toNat = min (c.ringFill.toNat + 1) c.latch.ringCap.toNat := by
        rw [c.emitted_eq, if_neg hcap]
        exact (c.counted b).toNat_ringWritten_ringFill b
      have hlatch : (c.emitted b).latch = c.latch := rfl
      rw [hnext, hlatch]
      omega

/-- A copy served by the host takes its answers and emits them. -/
theorem copyLoop_run_of_answers {c : Engine} {d : Nat} {bs rest : List Byte} (hd : d < 2 ^ 32)
    (hq : c.ports.readDestQ = bs ++ rest) (hacc : c.accepts bs.length) (hport : c.OnlyPortReaches d bs.length) :
    (copyLoop d bs.length).run c = .ok () ((bs.foldl Engine.emitted c).withPorts
      (c.ports.answered c.latch.ctrl.dstPush c.outCount d bs rest)) := by
  induction bs generalizing c with
  | nil =>
    obtain rfl : c.ports.readDestQ = rest := hq
    have hports : c.ports.answered c.latch.ctrl.dstPush c.outCount d [] c.ports.readDestQ = c.ports := by
      simp [Ports.answered]
    rw [hports]
    rfl
  | cons b bs ih =>
    have hbelow (hres : c.latch.ctrl.dstRes = true) : c.dstPos.toNat < d := by
      have hle := hport.resident hres
      rw [List.length_cons] at hle
      omega
    have hring : c.latch.ringCap = 0 ∨ c.ringFill.toNat < d :=
      hport.ring.imp id fun h => (h.resolve_left (Nat.succ_ne_zero _)).1
    have hread := histRead_run_of_readDest hbelow hring hq
    generalize hp : ({ c.ports with
      readDestQ := bs ++ rest, log := c.ports.log ++ [.readDest (c.outCount - BitVec.ofNat 32 d) b] } : Ports) = p at hread
    change (histRead d).run c = .ok b (c.withPorts p) at hread
    have hacc' : (c.withPorts p).accepts (bs.length + 1) := by
      rw [← hp]
      exact hacc
    have hport' : (c.withPorts p).OnlyPortReaches d (bs.length + 1) := ⟨hport.resident, hport.ring⟩
    have hports : ((c.withPorts p).emitted b).ports = { c.ports with
        readDestQ := bs ++ rest
        pushReady := if c.latch.ctrl.dstPush then c.ports.pushReady - 1 else c.ports.pushReady
        log := c.ports.log ++ .readDest (c.outCount - BitVec.ofNat 32 d) b ::
          (if c.latch.ctrl.dstPush then [.push b] else []) } := by
      change (if c.latch.ctrl.dstPush then { p with pushReady := p.pushReady - 1, log := p.log ++ [.push b] } else p) = _
      cases c.latch.ctrl.dstPush <;> simp [← hp]
    have hrest := ih (c := (c.withPorts p).emitted b) (congrArg Ports.readDestQ hports) (hacc'.emitted b) (hport'.emitted hd b)
    have hfold : (bs.foldl Engine.emitted ((c.withPorts p).emitted b)).withPorts _ = (bs.foldl Engine.emitted (c.emitted b)).withPorts _ :=
      foldl_emitted_withPorts bs (c.emitted b) ((c.withPorts p).emitted b).ports
        (c.ports.answered c.latch.ctrl.dstPush c.outCount d (b :: bs) rest)
    rw [List.length_cons, copyLoop_succ_run, hread]
    simp only [hacc'.emit_run, hrest, List.foldl_cons]
    rw [← hfold, ← Ports.answered_cons hports]
    rfl

/-! ### The statements -/

/-- Settles O33, by induction on the length: each byte read is the next of the copied bytes, and emitting it moves the history one
place further. -/
theorem copyRepeatsTheHistory : Obligations.CopyRepeatsTheHistory := by
  intro s len d hi hs hne hle hcov hacc hhist
  have hd : 1 ≤ d.toNat := (Engine.covered_bounds hcov).1
  have hpos : 1 ≤ len.toNat := Nat.pos_of_ne_zero fun h => hne (BitVec.eq_of_toNat_eq h)
  have hroom : ¬ (s.latch.ctrl.dstRes = true ∧ s.toEngine.room < len.toNat) := fun h => absurd (hacc.1 h.1).1 (Nat.not_le.mpr h.2)
  have hclear : s.toEngine.cleared.Inv := { hi with }
  have hloop := copyLoop_run_of_histBytes (c := s.toEngine.cleared) hd hclear hacc hhist
  refine (exec_copy_of_loop (wf_copy_iff.mpr ⟨hpos, hle⟩) hs hcov hroom hloop).trans ?_
  rw [foldl_emitted_cleared]
  rfl

/-- Settles O34, by induction on the answers: no other store comes to serve the distance before the copy ends. -/
theorem copyFromTheReadBackPort : Obligations.CopyFromTheReadBackPort := by
  intro s len d bs rest hs hne hle hlen hq hcov hacc hres hring
  have hpos : 1 ≤ len.toNat := Nat.pos_of_ne_zero fun h => hne (BitVec.eq_of_toNat_eq h)
  have hroom : ¬ (s.latch.ctrl.dstRes = true ∧ s.toEngine.room < len.toNat) := fun h => absurd (hacc.1 h.1).1 (Nat.not_le.mpr h.2)
  have hd : d.toNat < 2 ^ 32 := d.isLt.trans (by decide)
  have hport : s.toEngine.cleared.OnlyPortReaches d.toNat len.toNat := ⟨hres, hring.imp id .inr⟩
  rw [← hlen] at hport hacc
  have hloop := copyLoop_run_of_answers (c := s.toEngine.cleared) hd hq hacc hport
  rw [hlen] at hloop
  refine (exec_copy_of_loop (wf_copy_iff.mpr ⟨hpos, hle⟩) hs hcov hroom hloop).trans ?_
  rw [foldl_emitted_cleared, ← hlen]
  rfl

/-- Settles O35: the body of `COPY` is a loop of `HistRead` and `Emit`, and neither sees `RESULT`. -/
theorem copyIsGetThenPutPerByte : Obligations.CopyIsGetThenPutPerByte := by
  refine ⟨fun s t u d hget htok hput huok => ?_, fun s t u n d hn hcopy htok hone huok => ?_⟩
  · obtain ⟨hs, hcov, b, p, hread, rfl⟩ := exec_get_ok hget htok
    have hbyte : (b.setWidth 32).setWidth 8 = b := by simp
    change exec (.put ((b.setWidth 32).setWidth 8)) _ = _ at hput
    rw [hbyte] at hput
    obtain ⟨-, hroom, hemit, hu⟩ := exec_put_ok hput huok
    have hstart : (s.complete ((s.toEngine.cleared.withPorts p).withResult (b.setWidth 32))).toEngine.cleared =
        (s.toEngine.cleared.withPorts p).withResult (b.setWidth 32) := rfl
    rw [hstart] at hemit hu
    rw [Engine.emitted_withResult] at hu
    obtain ⟨c, hemit', -⟩ := (commutes_emit { result := fun _ => b.setWidth 32 } _).exists_of_ok
      (c := s.toEngine.cleared.withPorts p) hemit
    obtain rfl := emit_eq_ok hemit'
    have hloop : (copyLoop d.toNat (1 : BitVec 9).toNat).run s.toEngine.cleared =
        .ok () ((s.toEngine.cleared.withPorts p).emitted b) := by
      change (copyLoop d.toNat (0 + 1)).run _ = _
      rw [copyLoop_succ_run, hread]
      simp only [hemit']
      rfl
    have hspace : ¬ (s.latch.ctrl.dstRes = true ∧ s.toEngine.room < (1 : BitVec 9).toNat) := by
      rintro ⟨hres, hzero⟩
      refine hroom ⟨hres, ?_⟩
      change (s.latch.dstLen - s.dstPos).toNat < 1 at hzero
      change s.dstPos = s.latch.dstLen
      bv_omega
    have hexec := exec_copy_of_loop (n := 1) (wf_copy_iff.mpr (by decide)) hs hcov hspace hloop
    exact hexec.trans (congrArg Host.Outcome.next (State.setResult_complete (s := s) (r := 0) hu 1).symm)
  · obtain ⟨hwf, hs, hcov, hroom, c, hloop, rfl⟩ := exec_copy_ok hcopy htok
    obtain ⟨-, -, -, hroom', c', hloop', rfl⟩ := exec_copy_ok hone huok
    obtain ⟨hlatch, herr, hpos⟩ := copyLoop_dstPos hloop
    have hclear : (c.withResult (n.setWidth 32)).cleared = c.withResult (n.setWidth 32) := Engine.cleared_of_err herr
    change (copyLoop d.toNat 1).run (c.withResult (n.setWidth 32)).cleared = _ at hloop'
    rw [hclear] at hloop'
    obtain ⟨c₂, hlast, rfl⟩ := (commutes_copyLoop { result := fun _ => n.setWidth 32 } _ _).exists_of_ok (c := c) hloop'
    have hlen : (n + 1).toNat = n.toNat + 1 := by bv_omega
    have hall : (copyLoop d.toNat (n + 1).toNat).run s.toEngine.cleared = .ok () c₂ := by
      rw [hlen, copyLoop_add, EStateM.run_bind, hloop]
      exact hlast
    have hspace : ¬ (s.latch.ctrl.dstRes = true ∧ s.toEngine.room < (n + 1).toNat) := by
      rintro ⟨hres, hlt⟩
      have hge : ¬ (s.latch.dstLen - s.dstPos).toNat < n.toNat := fun h => hroom ⟨hres, h⟩
      have hmore : ¬ (c.latch.dstLen - c.dstPos).toNat < 1 := fun h => hroom' ⟨(congrArg (·.ctrl.dstRes) hlatch).trans hres, h⟩
      rw [hlatch, hpos hres] at hmore
      change ¬ (s.latch.dstLen - (s.dstPos + BitVec.ofNat 32 n.toNat)).toNat < 1 at hmore
      change (s.latch.dstLen - s.dstPos).toNat < (n + 1).toNat at hlt
      bv_omega
    have hresult : (n + 1).setWidth 32 = n.setWidth 32 + 1 := by bv_omega
    rw [← hresult]
    have hexec := exec_copy_of_loop (wf_copy_iff.mpr ⟨by omega, by omega⟩) hs hcov hspace hall
    exact hexec.trans (congrArg Host.Outcome.next (State.setResult_complete (s := s) (c := c₂) (r := 1) rfl _).symm)

end Sys2Proof.Machine
end

section
/-! SUPPORT. The loop of `STEP` does not depend on its bound (44_inflate.md R224; log entry 13): every pass takes a bit, emits a byte or
leaves `STORED` or `COPY`. With it the loop as a function of the budget left. At the end the settled statement. -/

namespace Sys2Proof.Machine

/-! ### Pieces that do not meet the bound -/

/-- The model's bound on the loop of `STEP` is not met in `x`. -/
def Cmd.Bounded {α : Type} (x : Cmd α) : Prop := ∀ c c', x.run c ≠ .error (.fault .loopBound) c'

section
variable {α β : Type} {x : Cmd α} {f : α → Cmd β}

theorem Cmd.Bounded.bind (hx : x.Bounded) (hf : ∀ a, (f a).Bounded) : (x >>= f).Bounded := by
  intro c c' h
  rcases Cmd.bind_eq_error h with h | ⟨a, c₁, -, h⟩
  · exact hx c c' h
  · exact hf a c₁ c' h

theorem Cmd.Bounded.get_bind {g : Engine → Cmd α} (hg : ∀ c, (g c).Bounded) : (get >>= g).Bounded := fun c => hg c c

theorem bounded_pure (a : α) : (pure a : Cmd α).Bounded := fun _ _ h => by cases h

theorem bounded_modify (m : Engine → Engine) : (modify m : Cmd PUnit).Bounded := fun _ _ h => by cases h

theorem bounded_set (d : Engine) : (set d : Cmd PUnit).Bounded := fun _ _ h => by cases h

theorem bounded_throw {st : Stop} (h : st ≠ .fault .loopBound) : (throw st : Cmd α).Bounded := by
  intro c c' hrun
  cases hrun
  exact h rfl

theorem bounded_raise (e : Err) : (raise e : Cmd α).Bounded := bounded_throw nofun

theorem bounded_require (ok : Bool) (e : Err) : (require ok e).Bounded := by
  unfold require
  split
  · exact bounded_pure ()
  · exact bounded_raise e
end

theorem Stop.Ordinary.ne_loopBound {st : Stop} (h : st.Ordinary) : st ≠ .fault .loopBound := by
  rintro rfl
  exact h rfl

theorem bounded_memRead (a : Addr) : (memRead a).Bounded := by
  refine .get_bind fun c => ?_
  split
  · cases c.mem.read a.toNat with
    | some b => exact bounded_pure b
    | none => exact bounded_throw nofun
  · exact bounded_throw nofun

theorem bounded_pullByte : pullByte.Bounded := by
  intro c c' h
  rw [pullByte_run] at h
  split at h
  · cases h
  · cases h
  · split at h <;> cases h

theorem bounded_getBit : getBit.Bounded := by
  have hfetch : fetchSourceByte.Bounded := by
    refine .get_bind fun c => ?_
    have hresident : residentByte.Bounded := by
      refine .get_bind fun c => ?_
      split
      · exact bounded_raise _
      · exact bounded_memRead _
    split
    · exact bounded_pullByte.bind fun b => (bounded_modify _).bind fun _ => bounded_pure b
    · exact hresident.bind fun b => (bounded_modify _).bind fun _ => bounded_pure b
  refine .bind (.get_bind fun c => ?_) fun _ => .get_bind fun c => (bounded_set _).bind fun _ => bounded_pure _
  split
  · exact hfetch.bind fun b => bounded_modify _
  · exact bounded_pure _

theorem bounded_buildTree (s : Slot) (ls : List (BitVec 4)) : (buildTree s ls).Bounded := by
  intro c c' h
  rw [buildTree_run] at h
  split at h <;> cases h

theorem bounded_readDest (pos : Word) : (readDest pos).Bounded := by
  intro c c' h
  rw [readDest_run] at h
  split at h <;> cases h

theorem sequencerClosed_bounded : Cmd.SequencerClosed fun _ x => x.Bounded where
  pure := bounded_pure
  bind := .bind
  stop h := bounded_throw h.ne_loopBound
  get_bind _ := .get_bind
  getBit := bounded_getBit
  alignBits := bounded_modify _
  lenWrite _ _ := bounded_modify _
  buildTree := bounded_buildTree
  readDest := bounded_readDest
  read_bind _ := .get_bind
  note _ _ := bounded_modify _
  mismatch := bounded_raise _

theorem bounded_memWrite (a : Addr) (b : Byte) : (memWrite a b).Bounded := by
  refine .get_bind fun c => ?_
  split
  · exact bounded_set _
  · exact bounded_throw nofun

theorem bounded_pushByte (b : Byte) : (pushByte b).Bounded := by
  refine .get_bind fun c => ?_
  split
  · exact bounded_throw nofun
  · exact bounded_set _

theorem bounded_emit (b : Byte) : (emit b).Bounded := by
  have hresident : (emitResident b).Bounded := by
    refine .get_bind fun c => ?_
    split
    · exact (bounded_memWrite _ _).bind fun _ => bounded_modify _
    · exact bounded_pure ()
  have hpush : (emitPush b).Bounded := by
    refine .get_bind fun c => ?_
    split
    · exact bounded_pushByte b
    · exact bounded_pure ()
  have hring : (emitRing b).Bounded := by
    refine .get_bind fun c => ?_
    split
    · exact bounded_pure ()
    · exact bounded_modify _
  exact hresident.bind fun _ => hpush.bind fun _ => hring.bind fun _ => (bounded_modify _).bind fun _ => bounded_modify _

theorem bounded_copyLoop (d n : Nat) : (copyLoop d n).Bounded := by
  induction n with
  | zero => exact bounded_pure ()
  | succ n ih => exact (sequencerClosed_bounded.histRead d).bind fun b => (bounded_emit b).bind fun _ => ih

theorem bounded_stepOnce : stepOnce.Bounded := by
  have hrules : Cmd.ActionRules (fun _ x => x.Bounded) fun x => x.Bounded :=
    { closed := sequencerClosed_bounded
      mute := fun hx => hx.bind fun _ => bounded_pure 0
      front := .bind
      emits := fun b hx _ => (bounded_emit b).bind fun _ => hx.bind fun _ => bounded_pure 1
      read_bind := fun _ => .get_bind
      raise := fun _ => bounded_raise _ }
  exact hrules.stepOnce

/-! ### Bits taken from the source -/

/-- A piece that, when it returns, has left at most as many bits in the source. -/
structure Cmd.Descends {α : Type} (x : Cmd α) : Prop where
  ok : ∀ {c c' : Engine} {a : α}, x.run c = .ok a c' → c'.latch = c.latch ∧ c'.bitsLeft ≤ c.bitsLeft

/-- A piece that, when it returns, has taken a bit from the source. -/
structure Cmd.TakesBit {α : Type} (x : Cmd α) : Prop where
  ok : ∀ {c c' : Engine} {a : α}, x.run c = .ok a c' → c'.latch = c.latch ∧ c'.bitsLeft < c.bitsLeft

section
variable {α β : Type} {x : Cmd α} {f : α → Cmd β}

theorem Cmd.TakesBit.descends (hx : x.TakesBit) : x.Descends := ⟨fun h => (hx.ok h).imp_right Nat.le_of_lt⟩

theorem Cmd.Descends.bind (hx : x.Descends) (hf : ∀ a, (f a).Descends) : (x >>= f).Descends where
  ok h := by
    obtain ⟨a, c₁, h₁, h₂⟩ := Cmd.bind_eq_ok h
    obtain ⟨hl₁, hle₁⟩ := hx.ok h₁
    obtain ⟨hl₂, hle₂⟩ := (hf a).ok h₂
    exact ⟨hl₂.trans hl₁, hle₂.trans hle₁⟩

theorem Cmd.TakesBit.bind (hx : x.TakesBit) (hf : ∀ a, (f a).Descends) : (x >>= f).TakesBit where
  ok h := by
    obtain ⟨a, c₁, h₁, h₂⟩ := Cmd.bind_eq_ok h
    obtain ⟨hl₁, hlt₁⟩ := hx.ok h₁
    obtain ⟨hl₂, hle₂⟩ := (hf a).ok h₂
    exact ⟨hl₂.trans hl₁, hle₂.trans_lt hlt₁⟩

theorem Cmd.Descends.bind_takesBit (hx : x.Descends) (hf : ∀ a, (f a).TakesBit) : (x >>= f).TakesBit where
  ok h := by
    obtain ⟨a, c₁, h₁, h₂⟩ := Cmd.bind_eq_ok h
    obtain ⟨hl₁, hle₁⟩ := hx.ok h₁
    obtain ⟨hl₂, hlt₂⟩ := (hf a).ok h₂
    exact ⟨hl₂.trans hl₁, hlt₂.trans_le hle₁⟩

theorem Cmd.Descends.get_bind {g : Engine → Cmd α} (hg : ∀ c, (g c).Descends) : (get >>= g).Descends := ⟨fun {c _ _} h => (hg c).ok h⟩

theorem Cmd.TakesBit.get_bind {g : Engine → Cmd α} (hg : ∀ c, (g c).TakesBit) : (get >>= g).TakesBit := ⟨fun {c _ _} h => (hg c).ok h⟩

theorem descends_pure (a : α) : (pure a : Cmd α).Descends := ⟨fun h => by cases h; exact ⟨rfl, le_rfl⟩⟩

theorem descends_throw (st : Stop) : (throw st : Cmd α).Descends := ⟨fun h => by cases h⟩

theorem descends_modify {m : Engine → Engine} (hm : ∀ c, (m c).latch = c.latch ∧ (m c).bitsLeft ≤ c.bitsLeft) :
    (modify m : Cmd PUnit).Descends :=
  ⟨fun h => by cases h; exact hm _⟩
end

/-- A byte fetched is one byte less in the source. -/
theorem fetchSourceByte_bitsLeft {c c' : Engine} {b : Byte} (h : fetchSourceByte.run c = .ok b c') :
    c'.latch = c.latch ∧ c'.bitcnt = c.bitcnt ∧ c'.bitsLeft + 8 = c.bitsLeft := by
  rw [fetchSourceByte_run] at h
  cases hpull : c.latch.ctrl.srcPull with
  | true =>
    rw [hpull, if_pos rfl, pullByte_run] at h
    rcases hq : c.ports.pullQ with _ | ⟨x | _, rest⟩
    · simp [hq] at h
    · rw [hq] at h
      cases hended : c.ports.pullEnded with
      | true => simp [hended] at h
      | false =>
        simp only [hended, Bool.false_eq_true, if_false] at h
        cases h
        refine ⟨rfl, rfl, ?_⟩
        simp only [Engine.bitsLeft, hpull, if_true, hq, List.length_cons]
        omega
    · simp [hq] at h
  | false =>
    rw [hpull, if_neg Bool.false_ne_true] at h
    cases hres : residentByte.run c with
    | error e c₁ => rw [hres] at h; cases h
    | ok b₁ c₁ =>
      rw [hres] at h
      cases h
      obtain ⟨rfl, hne⟩ := (residentByte_wp c).ok _ _ hres
      refine ⟨rfl, rfl, ?_⟩
      simp only [Engine.bitsLeft, hpull, Bool.false_eq_true, if_false]
      have hone : (c₁.latch.srcLen - (c₁.srcPos + 1)).toNat + 1 = (c₁.latch.srcLen - c₁.srcPos).toNat := by bv_omega
      omega

theorem takesBit_getBit : getBit.TakesBit where
  ok {c c' a} h := by
    rw [getBit_run, refill_run] at h
    by_cases hcnt : c.bitcnt = 0
    · rw [if_pos hcnt] at h
      cases hf : fetchSourceByte.run c with
      | error e c₁ => rw [hf] at h; cases h
      | ok b c₁ =>
        rw [hf] at h
        cases h
        obtain ⟨hl, hc, hbits⟩ := fetchSourceByte_bitsLeft hf
        refine ⟨hl, ?_⟩
        simp only [Engine.bitsLeft, hc, hcnt] at hbits ⊢
        have h8 : (8 - 1 : BitVec 5).toNat = 7 := rfl
        have h0 : (0 : BitVec 5).toNat = 0 := rfl
        omega
    · rw [if_neg hcnt] at h
      cases h
      refine ⟨rfl, ?_⟩
      simp only [Engine.bitsLeft]
      have hone : (c.bitcnt - 1).toNat + 1 = c.bitcnt.toNat := by bv_omega
      omega

theorem sequencerClosed_descends : Cmd.SequencerClosed fun _ x => x.Descends where
  pure := descends_pure
  bind := .bind
  stop _ := descends_throw _
  get_bind _ := .get_bind
  getBit := takesBit_getBit.descends
  alignBits := descends_modify fun c => ⟨rfl, Nat.add_le_add_right (Nat.zero_le _) _⟩
  lenWrite _ _ := descends_modify fun _ => ⟨rfl, le_rfl⟩
  buildTree s ls := ⟨fun {c c' a} h => by
    rw [buildTree_run] at h
    split at h <;> cases h
    cases s <;> exact ⟨rfl, le_rfl⟩⟩
  readDest pos := ⟨fun {c c' a} h => by
    rw [readDest_run] at h
    split at h <;> cases h
    exact ⟨rfl, le_rfl⟩⟩
  read_bind _ := .get_bind
  note _ _ := descends_modify fun _ => ⟨rfl, le_rfl⟩
  mismatch := descends_throw _

theorem descends_emit (b : Byte) : (emit b).Descends := ⟨fun {c c' a} h => by
  obtain rfl := emit_eq_ok h
  refine ⟨rfl, le_of_eq ?_⟩
  cases hpush : c.latch.ctrl.dstPush <;> simp [Engine.bitsLeft, Engine.emitted, hpush]⟩

theorem takesBit_getBits {n : Nat} (hn : n ≠ 0) : (getBits n).TakesBit := by
  obtain ⟨k, rfl⟩ := Nat.exists_eq_succ_of_ne_zero hn
  exact takesBit_getBit.bind fun _ => sequencerClosed_descends.getBitsLoop _ _ _

theorem takesBit_decodeSymbol (s : Slot) : (decodeSymbol s).TakesBit := by
  refine .get_bind fun c => (sequencerClosed_descends.require _ rfl).bind_takesBit fun _ => ?_
  exact takesBit_getBit.bind fun b => (sequencerClosed_descends.treeEntry _ _ _).bind fun n => by
    dsimp only
    split
    · exact sequencerClosed_descends.treeEntry _ _ _
    · exact sequencerClosed_descends.decodeLoop _ _ _ _ _ _ _

/-! ### The state after a pass: 44_inflate.md R225 -/

/-- The states between two passes of the loop: the sequencer runs, or the stream is done. -/
def PState.Live (p : PState) : Prop := p.active = true ∨ p = .done

theorem PState.live_of_not (p : PState) (hidle : p ≠ .idle) (hfailed : ¬ p.failed = true) : p.Live := by
  cases p with
  | idle => exact absurd rfl hidle
  | hdr | stored | huff | copy | trailer => exact .inl rfl
  | done => exact .inr rfl
  | dataError | checksumError | sourceExhausted => exact absurd rfl hfailed

/-- After every pass the sequencer is in such a state, whatever happened before its last move. -/
def Cmd.EndsLive {α : Type} (x : Cmd α) : Prop := ∀ c, x.wp (fun _ c' => c'.pstate.Live) (fun _ _ => True) c

section
variable {α β : Type} {x : Cmd α} {f : α → Cmd β}

theorem Cmd.EndsLive.bind (x : Cmd α) (hf : ∀ a, (f a).EndsLive) : (x >>= f).EndsLive := fun _ =>
  Cmd.wp_bind ⟨fun a c' _ => hf a c', fun _ _ _ => trivial⟩

theorem Cmd.EndsLive.count {x : Cmd α} (hx : x.EndsLive) (n : Nat) : (x >>= fun _ => pure n : Cmd Nat).EndsLive := fun c =>
  Cmd.wp_bind ((hx c).mono (fun _ _ h => Cmd.wp_pure h) fun _ _ _ => trivial)
end

theorem endsLive_setPState {p : PState} (h : p.Live) : (setPState p).EndsLive := fun _ => Cmd.wp_modify h

theorem endsLive_raise {α : Type} (e : Err) : (raise e : Cmd α).EndsLive := fun _ => Cmd.wp_raise trivial

theorem endsLive_endOfBlock : endOfBlock.EndsLive := by
  refine fun c => Cmd.wp_modify ?_
  show PState.Live (if c.bfinal then (if c.latch.ctrl.trailer = .none then .done else .trailer) else .hdr)
  split
  · split
    · exact .inr rfl
    · exact .inl rfl
  · exact .inl rfl

theorem endsLive_readHeader : readHeader.EndsLive := by
  refine .bind _ fun f => .bind _ fun _ => .bind _ fun t => .bind _ fun _ => ?_
  split
  · exact .bind _ fun _ => .bind _ fun _ => .bind _ fun _ => .bind _ fun _ => fun _ => Cmd.wp_modify (.inl rfl)
  · exact .bind _ fun _ => endsLive_setPState (.inl rfl)
  · exact .bind _ fun _ => endsLive_setPState (.inl rfl)
  · exact endsLive_raise _

theorem endsLive_matchStep (i : Nat) : (matchStep i).EndsLive :=
  .bind _ fun _ => .bind _ fun _ => .bind _ fun _ => .bind _ fun _ => .bind _ fun _ => .bind _ fun _ => fun _ =>
    Cmd.wp_modify (.inl rfl)

theorem endsLive_readTrailer : readTrailer.EndsLive := by
  refine .bind _ fun _ => .bind _ fun c => ?_
  split
  · exact .bind _ fun (_, _, _, _) => .bind _ fun _ => .bind _ fun _ => endsLive_setPState (.inr rfl)
  · exact .bind _ fun (_, _, _, _) => .bind _ fun _ => .bind _ fun _ => .bind _ fun _ => endsLive_setPState (.inr rfl)

/-! ### A pass makes progress: log entry 13 -/

/-- 1 in `STORED` and in `COPY`, which a pass can leave with neither a bit taken nor a byte emitted. -/
def PState.detour : PState → Nat
  | .stored | .copy => 1
  | _ => 0

theorem PState.detour_le (p : PState) : p.detour ≤ 1 := by cases p <;> decide

/-- What every pass of the loop lowers, with `left` bytes of the budget left. -/
def Engine.passesLeft (c : Engine) (left : Nat) : Nat := 2 * (c.bitsLeft + left) + c.pstate.detour

theorem takesBit_readHeader : readHeader.TakesBit := by
  refine (takesBit_getBits (by decide)).bind fun f => ?_
  refine (sequencerClosed_descends.note (n := fun _ => { bfinal := fun _ => f.getLsbD 0 }) (fun _ _ _ => rfl)
    fun _ => rfl).bind fun _ => ?_
  refine (sequencerClosed_descends.getBits 2).bind fun t => (sequencerClosed_descends.note
    (n := fun _ => { btype := fun _ => t.setWidth 2 }) (fun _ _ _ => rfl) fun _ => rfl).bind fun _ => ?_
  split
  · exact sequencerClosed_descends.storedHeader
  · exact sequencerClosed_descends.loadFixed.bind fun _ => sequencerClosed_descends.setPState _
  · exact sequencerClosed_descends.dynamicHeader.bind fun _ => sequencerClosed_descends.setPState _
  · exact descends_throw _

theorem takesBit_getBytes4 : getBytes4.TakesBit :=
  (takesBit_getBits (by decide)).bind fun _ => (sequencerClosed_descends.getBits 8).bind fun _ =>
    (sequencerClosed_descends.getBits 8).bind fun _ => (sequencerClosed_descends.getBits 8).bind fun _ => descends_pure _

theorem takesBit_readTrailer : readTrailer.TakesBit := by
  refine sequencerClosed_descends.alignBits.bind_takesBit fun _ => .get_bind fun c => ?_
  have hend (b : Engine → Bool) : (get >>= fun c => require (b c) .checksum >>= fun _ => setPState .done : Cmd PUnit).Descends :=
    .get_bind fun c => sequencerClosed_descends.compared _
  split
  · exact takesBit_getBytes4.bind fun (_, _, _, _) => hend _
  · exact takesBit_getBytes4.bind fun (_, _, _, _) => takesBit_getBytes4.descends.bind fun _ => hend _

theorem descends_emit_count {x : Cmd PUnit} (hx : x.Descends) (b : Byte) (n : Nat) :
    (emit b >>= fun _ => x >>= fun _ => pure n : Cmd Nat).Descends :=
  (descends_emit b).bind fun _ => hx.bind fun _ => descends_pure n

theorem takesBit_huffStep : huffStep.TakesBit := by
  refine (takesBit_decodeSymbol .lt).bind fun sym => ?_
  split
  · exact (descends_emit _).bind fun _ => descends_pure 1
  · split
    · exact sequencerClosed_descends.endOfBlock.bind fun _ => descends_pure 0
    · split
      · exact (sequencerClosed_descends.matchStep _).bind fun _ => descends_pure 0
      · exact descends_throw _

/-- An action in which at most one byte is emitted and the sequencer stays in or comes to a live state. -/
def Cmd.LiveFrom (x : Cmd Nat) (c : Engine) : Prop := x.wp (fun n c' => n ≤ 1 ∧ c'.pstate.Live) (fun _ _ => True) c

theorem Cmd.EndsLive.liveFrom {α : Type} {x : Cmd α} (hx : x.EndsLive) (c : Engine) : (x >>= fun _ => pure 0 : Cmd Nat).LiveFrom c :=
  Cmd.wp_bind ((hx c).mono (fun _ _ h => Cmd.wp_pure ⟨Nat.zero_le 1, h⟩) fun _ _ _ => trivial)

/-- A byte emitted behind a piece that leaves the sequencer where it is. -/
theorem liveFrom_of_emit {α : Type} {x : Cmd α} (hx : x.Quiet) {c : Engine} (hp : c.pstate.Live) {f : α → Cmd Nat}
    (hf : ∀ a c', c'.pstate.Live → (f a).LiveFrom c') : (x >>= f).LiveFrom c :=
  hx.wp_bind (fun _ _ _ _ => trivial) fun a c' hq => hf a c' (by rwa [hq.pstate])

theorem storedStep_live {c : Engine} (hp : c.pstate.Live) : storedStep.LiveFrom c := by
  refine Cmd.wp_get_bind (Cmd.wp_ite (fun _ => endsLive_endOfBlock.liveFrom c) fun _ => ?_)
  exact liveFrom_of_emit (quiet_getBits 8) hp fun b c' hp' =>
    Cmd.wp_bind (emit_wp (Cmd.wp_bind (Cmd.wp_modify (Cmd.wp_pure ⟨le_rfl, hp'⟩))))

theorem huffStep_live {c : Engine} (hp : c.pstate.Live) : huffStep.LiveFrom c := by
  refine liveFrom_of_emit (quiet_decodeSymbol .lt) hp fun sym c' hp' => Cmd.wp_ite (fun _ => ?_) fun _ =>
    Cmd.wp_ite (fun _ => endsLive_endOfBlock.liveFrom c') fun _ =>
    Cmd.wp_ite (fun _ => (endsLive_matchStep _).liveFrom c') fun _ => Cmd.wp_raise trivial
  exact Cmd.wp_bind (emit_wp (Cmd.wp_pure ⟨le_rfl, hp'⟩))

theorem copyStep_live {c : Engine} (hp : c.pstate.Live) : copyStep.LiveFrom c := by
  refine Cmd.wp_get_bind (Cmd.wp_ite (fun _ => (endsLive_setPState (.inl rfl)).liveFrom c) fun _ => ?_)
  exact liveFrom_of_emit (quiet_histRead _) hp fun b c' hp' =>
    Cmd.wp_bind (emit_wp (Cmd.wp_bind (Cmd.wp_modify (Cmd.wp_pure ⟨le_rfl, hp'⟩))))

theorem stepOnce_live {c : Engine} (hp : c.pstate.Live) : stepOnce.LiveFrom c := by
  refine Cmd.wp_get_bind ?_
  cases h : c.pstate with
  | hdr => exact endsLive_readHeader.liveFrom c
  | stored => exact storedStep_live hp
  | huff => exact huffStep_live hp
  | copy => exact copyStep_live hp
  | trailer => exact endsLive_readTrailer.liveFrom c
  | idle | done | dataError | checksumError | sourceExhausted => exact Cmd.wp_pure ⟨Nat.zero_le 1, hp⟩

section
variable {c c' : Engine} {n : Nat}

/-- What makes a pass one with progress. -/
def Engine.Progress (c : Engine) (n : Nat) (c' : Engine) : Prop :=
  2 * c'.bitsLeft + c'.pstate.detour < 2 * (c.bitsLeft + n) + c.pstate.detour

theorem Cmd.TakesBit.progress {x : Cmd Nat} (hx : x.TakesBit) (h : x.run c = .ok n c') : c.Progress n c' := by
  have hlt := (hx.ok h).2
  have hle := c'.pstate.detour_le
  rw [Engine.Progress]
  omega

theorem storedStep_progress (hp : c.pstate = .stored) (h : storedStep.run c = .ok n c') : c.Progress n c' := by
  have hrun : storedStep.run c = EStateM.run (if c.srem = 0 then endOfBlock >>= fun _ => pure 0 else getBits 8 >>= fun b =>
    emit (b.setWidth 8) >>= fun _ => (modify fun c => { c with srem := c.srem - 1 }) >>= fun _ => pure 1) c := rfl
  rw [hrun] at h
  split at h
  · cases h
    have hdetour : (if c.bfinal then (if c.latch.ctrl.trailer = .none then PState.done else .trailer) else .hdr).detour = 0 := by
      split
      · split <;> rfl
      · rfl
    rw [Engine.Progress, hp]
    show 2 * c.bitsLeft + PState.detour (if c.bfinal then _ else _) < _
    rw [hdetour]
    exact Nat.lt_succ_self _
  · refine Cmd.TakesBit.progress ?_ h
    exact (takesBit_getBits (by decide)).bind fun b => descends_emit_count
      (sequencerClosed_descends.note (n := fun _ => { srem := fun v => v - 1 }) (fun _ _ _ => rfl) fun _ => rfl) _ 1

theorem copyStep_progress (hp : c.pstate = .copy) (h : copyStep.run c = .ok n c') : c.Progress n c' := by
  have hrun : copyStep.run c = EStateM.run (if c.lzRem = 0 then setPState .huff >>= fun _ => pure 0
    else histRead c.lzDist.toNat >>= fun b => emit b >>= fun _ => (modify fun c => { c with lzRem := c.lzRem - 1 }) >>=
      fun _ => pure 1) c := rfl
  rw [hrun] at h
  split at h
  · cases h
    rw [Engine.Progress, hp]
    exact Nat.lt_succ_self _
  · have hdescends : (histRead c.lzDist.toNat >>= fun b => emit b >>= fun _ => (modify fun c => { c with lzRem := c.lzRem - 1 }) >>=
        fun _ => pure 1 : Cmd Nat).Descends :=
      (sequencerClosed_descends.histRead _).bind fun b => descends_emit_count
        (sequencerClosed_descends.note (n := fun _ => { lzRem := fun v => v - 1 }) (fun _ _ _ => rfl) fun _ => rfl) _ 1
    have hle := (hdescends.ok h).2
    obtain ⟨b, c₁, -, h₁⟩ := Cmd.bind_eq_ok h
    obtain ⟨_, c₂, -, h₂⟩ := Cmd.bind_eq_ok h₁
    obtain ⟨_, c₃, -, h₃⟩ := Cmd.bind_eq_ok h₂
    cases h₃
    have hdetour := c'.pstate.detour_le
    rw [Engine.Progress, hp, show PState.copy.detour = 1 from rfl]
    omega

/-- Every pass takes a bit, emits a byte, or leaves `STORED` or `COPY` for a state in which the next pass does. -/
theorem stepOnce_progress (hp : c.pstate.active = true) (h : stepOnce.run c = .ok n c') : c.Progress n c' := by
  rw [stepOnce_run] at h
  cases hc : c.pstate with
  | hdr => rw [hc] at h; exact (takesBit_readHeader.bind fun _ => descends_pure 0).progress h
  | stored => rw [hc] at h; exact storedStep_progress hc h
  | huff => rw [hc] at h; exact takesBit_huffStep.progress h
  | copy => rw [hc] at h; exact copyStep_progress hc h
  | trailer => rw [hc] at h; exact (takesBit_readTrailer.bind fun _ => descends_pure 0).progress h
  | idle | done | dataError | checksumError | sourceExhausted => simp [hc, PState.active] at hp
end

/-! ### The loop without its bound: 44_inflate.md R224 -/

theorem PState.Live.active {p : PState} (h : p.Live) (hne : p ≠ .done) : p.active = true := h.resolve_right hne

/-- A pass leaves less of what bounds the loop. -/
theorem passesLeft_lt {c c' : Engine} {n left : Nat} (hp : c.pstate.active = true) (h : stepOnce.run c = .ok n c') (hn : n ≤ left) :
    c'.passesLeft (left - n) < c.passesLeft left := by
  have hprogress := stepOnce_progress hp h
  rw [Engine.Progress] at hprogress
  rw [Engine.passesLeft, Engine.passesLeft]
  omega

section
variable {c : Engine}

/-- Enough passes are as good as any other number that is enough, and the bound is not met. -/
theorem stepLoop_run_of_enough {k k' left produced : Nat} (hp : c.pstate.Live) (hk : c.passesLeft left < k)
    (hk' : c.passesLeft left < k') :
    (stepLoop (produced + left) k produced).run c = (stepLoop (produced + left) k' produced).run c ∧
      ∀ c', (stepLoop (produced + left) k produced).run c ≠ .error (.fault .loopBound) c' := by
  induction k generalizing k' left produced c with
  | zero => exact absurd hk (Nat.not_lt_zero _)
  | succ k ih =>
    obtain ⟨k', rfl⟩ := Nat.exists_eq_succ_of_ne_zero (Nat.ne_zero_of_lt hk')
    rw [stepLoop_succ_run, stepLoop_succ_run]
    by_cases hend : c.pstate = .done ∨ produced = produced + left
    · rw [if_pos hend, if_pos hend]
      exact ⟨rfl, fun _ h => by cases h⟩
    · rw [if_neg hend, if_neg hend]
      obtain ⟨hdone, hleft⟩ := not_or.mp hend
      cases hs : stepOnce.run c with
      | ok n c' =>
        obtain ⟨hn, hp'⟩ := (stepOnce_live hp).ok n c' hs
        have hlt := passesLeft_lt (hp.active hdone) hs (left := left) (by omega)
        have hnext := ih (left := left - n) (produced := produced + n) (k' := k') hp' (by omega) (by omega)
        rw [show produced + n + (left - n) = produced + left by omega] at hnext
        exact hnext
      | error stop c' =>
        have hbound := bounded_stepOnce c c'
        rw [hs] at hbound
        cases stop with
        | raise e => exact ⟨rfl, fun _ h => by cases h⟩
        | wait w => exact ⟨rfl, fun _ h => by cases h⟩
        | refuse r => exact ⟨rfl, fun _ h => by cases h⟩
        | fault f => exact ⟨rfl, fun d hd => hbound (by cases hd; rfl)⟩

theorem Engine.passesLeft_lt_stepBound (c : Engine) (left : Nat) : c.passesLeft left < c.stepBound left := by
  have := c.pstate.detour_le
  rw [Engine.passesLeft, Engine.stepBound]
  omega
end

/-- The loop of `STEP` with `left` bytes of the budget left after `produced` bytes. -/
def stepRun (left produced : Nat) (c : Engine) : EStateM.Result Stop Engine (Option Word) :=
  (stepLoop (produced + left) (c.stepBound left) produced).run c

section
variable {c : Engine} {left produced : Nat}

theorem stepRun_zero (produced : Nat) (c : Engine) : stepRun 0 produced c = .ok (some (BitVec.ofNat 32 produced)) c := by
  obtain ⟨k, hk⟩ := c.stepBound_succ 0
  rw [stepRun, hk, stepLoop_succ_run, if_pos (.inr rfl)]

theorem stepRun_done (hp : c.pstate = .done) : stepRun left produced c = .ok (some (BitVec.ofNat 32 produced)) c := by
  obtain ⟨k, hk⟩ := c.stepBound_succ left
  rw [stepRun, hk, stepLoop_succ_run, if_pos (.inl hp)]

/-- The loop runs one pass and goes on, for as long as the stream is not done and budget is left (44_inflate.md R224). -/
theorem stepRun_eq (hp : c.pstate.active = true) (hleft : left ≠ 0) :
    stepRun left produced c = match stepOnce.run c with
      | .ok n c' => stepRun (left - n) (produced + n) c'
      | .error (.raise e) c' =>
          .ok (some (BitVec.ofNat 32 produced)) (c'.takeStepError e e.terminal (BitVec.ofNat 32 produced))
      | .error stop c' => .error stop c' := by
  obtain ⟨k, hk⟩ := c.stepBound_succ left
  have hbound := c.passesLeft_lt_stepBound left
  have hend : ¬ (c.pstate = .done ∨ produced = produced + left) := by
    rintro (h | h)
    · exact PState.ne_of_active hp rfl h
    · omega
  rw [stepRun, hk, stepLoop_succ_run, if_neg hend]
  cases hs : stepOnce.run c with
  | ok n c' =>
    obtain ⟨hn, hp'⟩ := (stepOnce_live (.inl hp)).ok n c' hs
    have hlt := passesLeft_lt hp hs (left := left) (by omega)
    have hsame := (stepLoop_run_of_enough (left := left - n) (produced := produced + n) hp' (k := k) (by omega)
      (c'.passesLeft_lt_stepBound (left - n))).1
    rw [show produced + n + (left - n) = produced + left by omega] at hsame
    simp only [stepRun, hsame, show produced + n + (left - n) = produced + left by omega]
  | error stop c' => cases stop <;> rfl

theorem stepBody_run_of_live (cap : BitVec 26) (hp : c.pstate.Live) : (stepBody cap).run c = stepRun (c.budget cap) 0 c := by
  rcases hp with hp | hp
  · rw [stepBody_run_of_active cap hp, stepRun, Nat.zero_add]
  · rw [stepBody_run_of_done cap hp, stepRun_done hp]
    rfl

theorem bounded_stepBody (cap : BitVec 26) (c : Engine) (hp : c.pstate ≠ .idle) (c' : Engine) :
    (stepBody cap).run c ≠ .error (.fault .loopBound) c' := by
  by_cases hfailed : c.pstate.failed = true
  · rw [stepBody_run_of_failed cap hfailed]
    nofun
  · have hlive : c.pstate.Live := c.pstate.live_of_not hp hfailed
    rw [stepBody_run_of_live cap hlive]
    have hbound := (stepLoop_run_of_enough (left := c.budget cap) (produced := 0) hlive (c.passesLeft_lt_stepBound _)
      (c.passesLeft_lt_stepBound _)).2
    exact hbound c'
end

/-! ### The statement -/

theorem bounded_requireStream : requireStream.Bounded := .get_bind fun _ => bounded_require _ _

theorem bounded_bodyOf (i : Instr) : (bodyOf i).Bounded := by
  have hclosed := sequencerClosed_bounded
  have hreport : reportResult.Bounded := .get_bind fun _ => bounded_pure _
  cases i with
  | nop => exact bounded_pure none
  | init =>
    refine .get_bind fun c => ?_
    split
    · exact bounded_throw nofun
    · exact (bounded_set _).bind fun _ => bounded_pure _
  | step cap =>
    intro c c' h
    by_cases hp : c.pstate = .idle
    · rw [bodyOf, EStateM.run_bind, requireStream_run, if_pos hp] at h
      cases h
    · exact bounded_stepBody cap c hp c' ((requireStream_bind_run hp).symm.trans h)
  | getbits n => exact bounded_requireStream.bind fun _ => hclosed.map (hclosed.getBits _) some
  | getbyte => exact bounded_requireStream.bind fun _ => hclosed.map (hclosed.getBits 8) some
  | align => exact bounded_requireStream.bind fun _ => hclosed.alignBits.bind fun _ => bounded_pure _
  | ckinit kind => exact (bounded_modify _).bind fun _ => hreport
  | ckset kind => exact (bounded_modify _).bind fun _ => hreport
  | ckbyte b => exact (bounded_modify _).bind fun _ => hreport
  | lenw idx len => exact (hclosed.lenWrite _ _).bind fun _ => bounded_pure _
  | lenr idx => exact (hclosed.lenRead _).bind fun _ => bounded_pure _
  | build slot base num => exact (hclosed.readLens _ _).bind fun _ => (hclosed.buildTree _ _).bind fun _ => bounded_pure _
  | fixed => exact hclosed.loadFixed.bind fun _ => bounded_pure _
  | decode slot => exact bounded_requireStream.bind fun _ => (hclosed.decodeSymbol _).bind fun _ => bounded_pure _
  | put b =>
    exact bounded_requireStream.bind fun _ => .get_bind fun _ => (bounded_require _ _).bind fun _ =>
      (bounded_emit b).bind fun _ => bounded_pure _
  | get dist =>
    exact bounded_requireStream.bind fun _ => .get_bind fun _ => (bounded_require _ _).bind fun _ =>
      (hclosed.histRead _).bind fun _ => bounded_pure _
  | copy len dist =>
    exact bounded_requireStream.bind fun _ => .get_bind fun _ => (bounded_require _ _).bind fun _ =>
      (bounded_require _ _).bind fun _ => (bounded_copyLoop _ _).bind fun _ => bounded_pure _
  | preload b =>
    exact bounded_requireStream.bind fun _ => .get_bind fun _ => (bounded_require _ _).bind fun _ =>
      (bounded_modify _).bind fun _ => bounded_pure _

/-- Settles O49: twice the bits and bytes left, and one in `STORED` and `COPY`, fall with every pass and begin below the bound. -/
theorem stepLoopNeverReachesItsBound : Obligations.StepLoopNeverReachesItsBound := by
  intro i s h
  obtain ⟨c, hc⟩ := exec_eq_fault h
  exact bounded_bodyOf i _ c hc

end Sys2Proof.Machine
end

section
/-! SUPPORT. What a command writes (43_window.md R190, 41_checksum.md R147, 20_memory.md R62): pieces that emit nothing, the bytes a
piece has emitted where it ends, and the bytes it has stored wherever it stops. At the end the settled statements. -/

namespace Sys2Proof.Machine

/-! ### Pieces that emit nothing -/

/-- Between `c` and `c'` nothing was emitted: everything but the bit reader, `LEN`, the trees, the sequencer's registers and the ports is
as it was, no byte was pushed, and the stores have stayed in canonical form. -/
structure Engine.Mute (c c' : Engine) : Prop where
  same : c' = { c' with
    ctrl := c.ctrl, ringCapReg := c.ringCapReg, srcBase := c.srcBase, srcLen := c.srcLen, dstBase := c.dstBase
    dstLen := c.dstLen, data := c.data, result := c.result, err := c.err, streamErr := c.streamErr, ckKind := c.ckKind
    ckState := c.ckState, ring := c.ring, ringIdx := c.ringIdx, ringFill := c.ringFill, dstPos := c.dstPos
    outCount := c.outCount, outSat := c.outSat, latch := c.latch, mem := c.mem, platform := c.platform } := by rfl
  log : ∃ evs, c'.ports.log = c.ports.log ++ evs ∧ pushedBytes evs = [] := by exact ⟨[], (List.append_nil _).symm, rfl⟩
  stores : c.storesWf = true → c'.storesWf = true := by exact id

theorem Engine.Mute.refl (c : Engine) : c.Mute c := {}

theorem Engine.Mute.exists_eq {c c' : Engine} (h : c.Mute c') : ∃ d : Engine, c' = { d with
    ctrl := c.ctrl, ringCapReg := c.ringCapReg, srcBase := c.srcBase, srcLen := c.srcLen, dstBase := c.dstBase
    dstLen := c.dstLen, data := c.data, result := c.result, err := c.err, streamErr := c.streamErr, ckKind := c.ckKind
    ckState := c.ckState, ring := c.ring, ringIdx := c.ringIdx, ringFill := c.ringFill, dstPos := c.dstPos
    outCount := c.outCount, outSat := c.outSat, latch := c.latch, mem := c.mem, platform := c.platform } :=
  ⟨c', h.same⟩

theorem pushedBytes_append (p q : List PortEvent) : pushedBytes (p ++ q) = pushedBytes p ++ pushedBytes q :=
  List.filterMap_append

theorem Engine.Mute.trans {a b c : Engine} (h : a.Mute b) (h' : b.Mute c) : a.Mute c where
  same := by
    obtain ⟨d, rfl⟩ := h.exists_eq
    exact h'.same
  log := by
    obtain ⟨p, hp, hp'⟩ := h.log
    obtain ⟨q, hq, hq'⟩ := h'.log
    exact ⟨p ++ q, by rw [hq, hp, List.append_assoc], by rw [pushedBytes_append, hp', hq', List.append_nil]⟩
  stores := h'.stores ∘ h.stores

/-- A piece that emits nothing, wherever it ends, and raises only what an action of the sequencer can. -/
structure Cmd.Mute {α : Type} (x : Cmd α) : Prop where
  after : ∀ c : Engine, c.Mute (x.after c)
  raise : ∀ {c c' : Engine} {e : Err}, x.run c = .error (.raise e) c' → e.fromStep = true

section
variable {α β : Type} {x : Cmd α} {f : α → Cmd β}

theorem Cmd.Mute.of_ok {c c' : Engine} {a : α} (hx : x.Mute) (h : x.run c = .ok a c') : c.Mute c' := Cmd.after_of_ok h ▸ hx.after c

theorem Cmd.Mute.of_error {c c' : Engine} {st : Stop} (hx : x.Mute) (h : x.run c = .error st c') : c.Mute c' :=
  Cmd.after_of_error h ▸ hx.after c

theorem Cmd.Mute.bind (hx : x.Mute) (hf : ∀ a, (f a).Mute) : (x >>= f).Mute where
  after c := Cmd.after_bind Engine.Mute .trans x f c (hx.after c) fun a c' => (hf a).after c'
  raise h := by
    rcases Cmd.bind_eq_error h with h | ⟨a, c₁, -, h⟩
    · exact hx.raise h
    · exact (hf a).raise h

theorem Cmd.Mute.get_bind {g : Engine → Cmd α} (hg : ∀ c, (g c).Mute) : (get >>= g).Mute where
  after c := (hg c).after c
  raise {c _ _} h := (hg c).raise h

theorem mute_pure (a : α) : (pure a : Cmd α).Mute := ⟨fun c => .refl c, fun h => by cases h⟩

theorem mute_modify {m : Engine → Engine} (hm : ∀ c : Engine, c.Mute (m c)) : (modify m : Cmd PUnit).Mute :=
  ⟨hm, fun h => by cases h⟩

theorem mute_throw {st : Stop} (h : st.Ordinary) : (throw st : Cmd α).Mute :=
  ⟨fun c => .refl c, fun hr => by cases hr; exact Err.fromStep_of_ofPiece h⟩
end

/-- A fetch records what the host answered and nothing else. -/
theorem fetchSourceByte_log (c : Engine) :
    ∃ evs, (fetchSourceByte.after c).ports.log = c.ports.log ++ evs ∧ pushedBytes evs = [] := by
  rw [Cmd.after, fetchSourceByte_run]
  cases hpull : c.latch.ctrl.srcPull with
  | true =>
    rw [if_pos rfl, pullByte_run]
    rcases c.ports.pullQ with _ | ⟨x | _, rest⟩
    · exact ⟨[], (List.append_nil _).symm, rfl⟩
    · cases hended : c.ports.pullEnded with
      | true => exact ⟨[], (List.append_nil _).symm, rfl⟩
      | false => exact ⟨[.pull (.byte x)], rfl, rfl⟩
    · exact ⟨[.pull .eof], rfl, rfl⟩
  | false =>
    rw [if_neg Bool.false_ne_true]
    have hafter := residentByte_after c
    cases h : residentByte.run c with
    | ok b c' =>
      obtain rfl : c' = c := Cmd.after_of_ok h ▸ hafter
      exact ⟨[], (List.append_nil _).symm, rfl⟩
    | error e c' =>
      obtain rfl : c' = c := Cmd.after_of_error h ▸ hafter
      exact ⟨[], (List.append_nil _).symm, rfl⟩

theorem BitFrame.mute {c c' : Engine} (h : BitFrame c c')
    (hlog : ∃ evs, c'.ports.log = c.ports.log ++ evs ∧ pushedBytes evs = []) : c.Mute c' where
  same := by
    rw [h]
  log := hlog
  stores := by
    rw [h]
    exact id

theorem mute_fetchSourceByte : fetchSourceByte.Mute where
  after c := (fetchSourceByte_frame c).mute (fetchSourceByte_log c)
  raise h := (((quiet_fetchSourceByte.wp _).raise _ _ h)).1

theorem mute_getBit : getBit.Mute := by
  refine .bind (.get_bind fun c => ?_) fun _ => ⟨fun c => {}, fun h => by cases h⟩
  split
  · exact mute_fetchSourceByte.bind fun b => mute_modify fun _ => {}
  · exact mute_pure _

theorem Engine.storesWf_iff (c : Engine) : c.storesWf = true ↔
    Memory.wf c.mem = true ∧ c.len.wf = true ∧ c.ring.wf = true ∧ c.lt.count.wf = true ∧ c.lt.trans.wf = true ∧
      c.dt.count.wf = true ∧ c.dt.trans.wf = true ∧ c.ct.count.wf = true ∧ c.ct.trans.wf = true := by
  simp only [Engine.storesWf, Bool.and_eq_true, and_assoc]

/-- A table written for a range of indexes is canonical. -/
theorem wf_countTable (cnt : List Nat) : (countTable cnt).wf = true := by
  have hrange (f : Nat → BitVec 9) (s n : Nat) : Cells.wf ((List.range' s n).map fun l => (l, f l)) = true := by
    induction n generalizing s with
    | zero => rfl
    | succ n ih =>
      rw [List.range'_succ, List.map_cons, Cells.wf_cons]
      refine ⟨fun p hp => ?_, ih _⟩
      obtain ⟨l, hl, rfl⟩ := List.mem_map.mp hp
      exact (List.mem_range'_1.mp hl).1
  rw [countTable, List.range_eq_range']
  exact hrange _ _ _

theorem wf_placeSymbols (i : Nat) (ls : List (BitVec 4)) (offs : List Nat) {tab : Cells (BitVec 9)} (h : tab.wf = true) :
    (placeSymbols i ls offs tab).wf = true := by
  induction ls generalizing i offs tab with
  | nil => exact h
  | cons l rest ih =>
    rw [placeSymbols]
    split
    · exact ih _ _ h
    · exact ih _ _ (Cells.wf_write _ _ _ h)

theorem Engine.storesWf_setTree {c : Engine} (s : Slot) {t : Tree} (h : c.storesWf = true) (hcount : t.count.wf = true)
    (htrans : t.trans.wf = true) : (c.setTree s t).storesWf = true := by
  obtain ⟨hmem, hlen, hring, hltc, hltt, hdtc, hdtt, hctc, hctt⟩ := c.storesWf_iff.mp h
  cases s with
  | lt => exact (Engine.storesWf_iff _).mpr ⟨hmem, hlen, hring, hcount, htrans, hdtc, hdtt, hctc, hctt⟩
  | dt => exact (Engine.storesWf_iff _).mpr ⟨hmem, hlen, hring, hltc, hltt, hcount, htrans, hctc, hctt⟩
  | ct => exact (Engine.storesWf_iff _).mpr ⟨hmem, hlen, hring, hltc, hltt, hdtc, hdtt, hcount, htrans⟩

theorem Engine.trans_wf_tree {c : Engine} (s : Slot) (h : c.storesWf = true) : (c.tree s).trans.wf = true := by
  obtain ⟨-, -, -, -, hltt, -, hdtt, -, hctt⟩ := c.storesWf_iff.mp h
  cases s with
  | lt => exact hltt
  | dt => exact hdtt
  | ct => exact hctt

theorem mute_buildTree (s : Slot) (ls : List (BitVec 4)) : (buildTree s ls).Mute := by
  have hset (c : Engine) (t : Tree) (hcount : t.count.wf = true) (htrans : c.storesWf = true → t.trans.wf = true) :
      c.Mute (c.setTree s t) := by
    have hstores (h : c.storesWf = true) := c.storesWf_setTree s h hcount (htrans h)
    cases s <;> exact { stores := hstores }
  refine ⟨fun c => ?_, fun {c _ _} h => ?_⟩
  · rw [Cmd.after, buildTree_run]
    by_cases hover : overSubscribed ls = true
    · rw [if_pos hover]
      exact hset c _ (wf_countTable _) (c.trans_wf_tree s)
    · rw [if_neg hover]
      exact hset c _ (wf_countTable _) fun h => wf_placeSymbols _ _ _ (c.trans_wf_tree s h)
  · rw [buildTree_run] at h
    split at h <;> cases h
    rfl

theorem mute_readDest (pos : Word) : (readDest pos).Mute := by
  refine ⟨fun c => ?_, fun {c _ _} h => ?_⟩
  · rw [Cmd.after, readDest_run]
    cases c.ports.readDestQ with
    | nil => exact .refl c
    | cons b rest => exact { log := ⟨[.readDest pos b], rfl, rfl⟩ }
  · rw [readDest_run] at h
    split at h <;> cases h

theorem mute_lenWrite (i : Nat) (v : BitVec 4) : (lenWrite i v).Mute := by
  refine mute_modify fun c => { stores := fun h => ?_ }
  obtain ⟨hmem, hlen, hrest⟩ := c.storesWf_iff.mp h
  exact (Engine.storesWf_iff _).mpr ⟨hmem, Cells.wf_write _ _ _ hlen, hrest⟩

theorem sequencerClosed_mute : Cmd.SequencerClosed fun _ x => x.Mute where
  pure := mute_pure
  bind := .bind
  stop := mute_throw
  get_bind _ := .get_bind
  getBit := mute_getBit
  alignBits := mute_modify fun _ => {}
  lenWrite := mute_lenWrite
  buildTree := mute_buildTree
  readDest := mute_readDest
  read_bind _ := .get_bind
  note _ hresult := mute_modify fun c => { same := by simp [Engine.noted, hresult] }
  mismatch := ⟨fun c => .refl c, fun hr => by cases hr; rfl⟩

/-! ### Bytes stored and bytes emitted -/

/-- From `c` to `c'` at most `n` bytes were stored, all from the resident cursor on, which advanced over them: wherever a piece of a
command stops, a wait among the ends. -/
structure Engine.Stored (c : Engine) (n : Nat) (c' : Engine) : Prop where
  same : c' = { c' with
    ctrl := c.ctrl, ringCapReg := c.ringCapReg, srcBase := c.srcBase, srcLen := c.srcLen, dstBase := c.dstBase
    dstLen := c.dstLen, data := c.data, latch := c.latch, platform := c.platform }
  dstPos : c'.dstPos = if c.latch.ctrl.dstRes then c.dstPos + BitVec.ofNat 32 n else c.dstPos
  mem : ∀ a : Addr, ¬ (c.latch.ctrl.dstRes = true ∧ (a - (c.latch.dstBase + c.dstPos)).toNat < n) →
    c'.mem.read a.toNat = c.mem.read a.toNat
  log : c.ports.log <+: c'.ports.log
  stores : c.storesWf = true → c'.storesWf = true

theorem noAdvance (res : Bool) (pos : Word) : (if res then pos + BitVec.ofNat 32 0 else pos) = pos := by simp

theorem Engine.Stored.latch {c c' : Engine} {n : Nat} (h : c.Stored n c') : c'.latch = c.latch := by rw [h.same]

theorem Engine.Stored.trans {a b c : Engine} {m n : Nat} (h : a.Stored m b) (h' : b.Stored n c) : a.Stored (m + n) c where
  same := by
    rw [h'.same, h.same]
  dstPos := by
    rw [h'.dstPos, h.latch, h.dstPos]
    split
    · rw [BitVec.ofNat_add, BitVec.add_assoc]
    · rfl
  mem x hx := by
    rw [h'.mem x ?_, h.mem x fun hm => hx ⟨hm.1, hm.2.trans_le (Nat.le_add_right m n)⟩]
    rw [h.latch, h.dstPos]
    rintro ⟨hres, hlt⟩
    refine hx ⟨hres, ?_⟩
    rw [if_pos hres] at hlt
    have hm : (BitVec.ofNat 32 m).toNat ≤ m := Nat.mod_le _ _
    generalize BitVec.ofNat 32 m = v at hlt hm
    bv_omega
  log := h.log.trans h'.log
  stores := h'.stores ∘ h.stores

/-- Where the cursor has not passed, memory is as it was. -/
theorem Engine.Stored.mem_outside {c c' : Engine} {n : Nat} (h : c.Stored n c') (hn : n < 2 ^ 32) {a : Addr}
    (ha : ¬ (a - (c.latch.dstBase + c.dstPos)).toNat < (c'.dstPos - c.dstPos).toNat) : c'.mem.read a.toNat = c.mem.read a.toNat := by
  refine h.mem a ?_
  rintro ⟨hres, hlt⟩
  rw [h.dstPos, if_pos hres] at ha
  have hlen : (c.dstPos + BitVec.ofNat 32 n - c.dstPos).toNat = n := by
    rw [BitVec.add_comm, BitVec.add_sub_cancel, BitVec.toNat_ofNat]
    omega
  rw [hlen] at ha
  exact ha hlt

theorem Engine.Mute.stored {c c' : Engine} (h : c.Mute c') : c.Stored 0 c' := by
  obtain ⟨evs, hlog, -⟩ := h.log
  have hstores := h.stores
  obtain ⟨d, rfl⟩ := h.exists_eq
  exact { same := rfl, dstPos := (noAdvance _ _).symm, mem := fun _ _ => rfl, log := ⟨evs, hlog.symm⟩, stores := hstores }

/-- From `c` to `c'` just the bytes `bs` were emitted (43_window.md R190). -/
structure Engine.Wrote (c : Engine) (bs : List Byte) (c' : Engine) : Prop where
  stored : c.Stored bs.length c'
  ckKind : c'.ckKind = c.ckKind
  ckState : c'.ckState = bs.foldl c.ckKind.update c.ckState
  outCount : c'.outCount = c.outCount + BitVec.ofNat 32 bs.length
  pushed : c.latch.ctrl.dstPush = true → ∃ evs, c'.ports.log = c.ports.log ++ evs ∧ pushedBytes evs = bs

theorem Engine.Wrote.trans {a b c : Engine} {p q : List Byte} (h : a.Wrote p b) (h' : b.Wrote q c) : a.Wrote (p ++ q) c where
  stored := by
    rw [List.length_append]
    exact h.stored.trans h'.stored
  ckKind := h'.ckKind.trans h.ckKind
  ckState := by rw [h'.ckState, h.ckKind, h.ckState, List.foldl_append]
  outCount := by rw [h'.outCount, h.outCount, List.length_append, BitVec.ofNat_add, BitVec.add_assoc]
  pushed hpush := by
    obtain ⟨e, he, he'⟩ := h.pushed hpush
    obtain ⟨f, hf, hf'⟩ := h'.pushed (by rwa [h.stored.latch])
    exact ⟨e ++ f, by rw [hf, he, List.append_assoc], by rw [pushedBytes_append, he', hf']⟩

theorem Engine.Mute.wrote {c c' : Engine} (h : c.Mute c') : c.Wrote [] c' := by
  have hstored := h.stored
  have hlog := h.log
  obtain ⟨d, rfl⟩ := h.exists_eq
  exact { stored := hstored, ckKind := rfl, ckState := rfl, outCount := (BitVec.add_zero _).symm, pushed := fun _ => hlog }

theorem Engine.storesWf_residentWritten {c : Engine} (b : Byte) (h : c.storesWf = true) : (c.residentWritten b).storesWf = true := by
  obtain ⟨hmem, hrest⟩ := c.storesWf_iff.mp h
  refine (Engine.storesWf_iff _).mpr ⟨?_, hrest⟩
  show Cells.wf (if c.latch.ctrl.dstRes then _ else _) = true
  split
  · exact Cells.wf_write _ _ _ hmem
  · exact hmem

/-- The resident write of `Emit` stores one byte, at the resident cursor. -/
theorem Engine.stored_residentWritten (c : Engine) (b : Byte) : c.Stored 1 (c.residentWritten b) where
  same := rfl
  dstPos := rfl
  mem a ha := by
    show Cells.read (if c.latch.ctrl.dstRes then _ else _) _ = _
    split
    · next hres =>
      refine Cells.read_write_other _ _ _ _ fun heq => ha ⟨hres, ?_⟩
      have haddr : a = c.latch.dstBase + c.dstPos := BitVec.eq_of_toNat_eq heq
      simp [haddr]
    · rfl
  log := List.prefix_rfl
  stores := c.storesWf_residentWritten b

theorem Engine.emitted_log (c : Engine) (b : Byte) :
    (c.emitted b).ports.log = c.ports.log ++ if c.latch.ctrl.dstPush then [.push b] else [] := by
  show Ports.log (if c.latch.ctrl.dstPush then _ else _) = _
  split
  · rfl
  · exact (List.append_nil _).symm

theorem Engine.storesWf_ringWritten {c : Engine} (b : Byte) (h : c.storesWf = true) : (c.ringWritten b).storesWf = true := by
  obtain ⟨hmem, hlen, hring, hrest⟩ := c.storesWf_iff.mp h
  exact (Engine.storesWf_iff _).mpr ⟨hmem, hlen, Cells.wf_write _ _ _ hring, hrest⟩

/-- `Emit`, when it returns, has emitted its byte. -/
theorem Engine.wrote_emitted (c : Engine) (b : Byte) : c.Wrote [b] (c.emitted b) where
  stored := {
    same := rfl
    dstPos := rfl
    mem := (c.stored_residentWritten b).mem
    log := ⟨_, (c.emitted_log b).symm⟩
    stores := fun h => by
      have hcounted : (c.counted b).storesWf = true := c.storesWf_residentWritten b h
      rw [c.emitted_eq]
      split
      · exact hcounted
      · exact (c.counted b).storesWf_ringWritten b hcounted }
  ckKind := rfl
  ckState := rfl
  outCount := rfl
  pushed hpush := ⟨[.push b], by rw [c.emitted_log, if_pos hpush], rfl⟩

/-- `Emit`, where it waits, has stored one byte or none. -/
theorem emit_stored {b : Byte} {c c' : Engine} {st : Stop} (h : (emit b).run c = .error st c') :
    (∃ w, st = .wait w) ∧ ∃ n, n ≤ 1 ∧ c.Stored n c' := by
  by_cases hres : c.latch.ctrl.dstRes = true → c.platform.backs (c.latch.dstBase + c.dstPos) = true
  · by_cases hpush : c.latch.ctrl.dstPush = true → c.ports.pushReady ≠ 0
    · rw [emit_run_of_ready hres hpush] at h
      cases h
    · obtain ⟨hpush, hq⟩ := Classical.not_imp.mp hpush
      rw [emit_run_of_not_accepted hpush (not_not.mp hq) hres] at h
      cases h
      exact ⟨⟨_, rfl⟩, 1, le_rfl, c.stored_residentWritten b⟩
  · obtain ⟨hres, hbacks⟩ := Classical.not_imp.mp hres
    rw [emit_run_of_unbacked hres (by simpa using hbacks)] at h
    cases h
    exact ⟨⟨_, rfl⟩, 0, Nat.zero_le 1, (Engine.Mute.refl c).stored⟩

/-! ### What the bodies of the commands write -/

/-- A piece that emits what it returns a count of, one byte at most. -/
structure Cmd.Emits (x : Cmd Nat) : Prop where
  ok : ∀ {c c' : Engine} {n : Nat}, x.run c = .ok n c' → ∃ bs, bs.length = n ∧ n ≤ 1 ∧ c.Wrote bs c'
  error : ∀ {c c' : Engine} {st : Stop}, x.run c = .error st c' →
    (∃ n, n ≤ 1 ∧ c.Stored n c') ∧ ∀ e, st = .raise e → e.fromStep = true ∧ c.Wrote [] c'

theorem emits_stepOnce : stepOnce.Emits := by
  have hrules : Cmd.ActionRules (fun _ x => x.Mute) Cmd.Emits :=
    { closed := sequencerClosed_mute
      mute := fun hx => {
        ok := fun h => by
          obtain ⟨a, c₁, h₁, h₂⟩ := Cmd.bind_eq_ok h
          cases h₂
          exact ⟨[], rfl, Nat.zero_le 1, (hx.of_ok h₁).wrote⟩
        error := fun h => by
          rcases Cmd.bind_eq_error h with h | ⟨a, c₁, h₁, h₂⟩
          · have hmute := hx.of_error h
            refine ⟨⟨0, Nat.zero_le 1, hmute.stored⟩, fun e he => ?_⟩
            subst he
            exact ⟨hx.raise h, hmute.wrote⟩
          · cases h₂ }
      front := fun hx hf => {
        ok := fun h => by
          obtain ⟨a, c₁, h₁, h₂⟩ := Cmd.bind_eq_ok h
          obtain ⟨bs, hlen, hn, hwrote⟩ := (hf a).ok h₂
          exact ⟨bs, hlen, hn, (hx.of_ok h₁).wrote.trans hwrote⟩
        error := fun h => by
          rcases Cmd.bind_eq_error h with h | ⟨a, c₁, h₁, h₂⟩
          · have hmute := hx.of_error h
            refine ⟨⟨0, Nat.zero_le 1, hmute.stored⟩, fun e he => ?_⟩
            subst he
            exact ⟨hx.raise h, hmute.wrote⟩
          · obtain ⟨⟨n, hn, hstored⟩, hraise⟩ := (hf a).error h₂
            have hmute := hx.of_ok h₁
            refine ⟨⟨n, hn, ?_⟩, fun e he => ⟨(hraise e he).1, hmute.wrote.trans (hraise e he).2⟩⟩
            have hall := hmute.stored.trans hstored
            rwa [Nat.zero_add] at hall }
      emits := fun b hx hret => {
        ok := fun h => by
          obtain ⟨_, c₁, h₁, h₂⟩ := Cmd.bind_eq_ok h
          obtain ⟨_, c₂, h₃, h₄⟩ := Cmd.bind_eq_ok h₂
          cases h₄
          obtain rfl := emit_eq_ok h₁
          exact ⟨[b], rfl, le_rfl, (Engine.wrote_emitted _ b).trans (hx.of_ok h₃).wrote⟩
        error := fun h => by
          rcases Cmd.bind_eq_error h with h | ⟨_, c₁, h₁, h₂⟩
          · obtain ⟨⟨w, rfl⟩, hstored⟩ := emit_stored h
            exact ⟨hstored, nofun⟩
          · obtain ⟨c₂, hx₂⟩ := hret c₁
            rw [EStateM.run_bind, hx₂] at h₂
            cases h₂ }
      read_bind := fun _ hf => ⟨fun {c _ _} h => (hf c).ok h, fun {c _ _} h => (hf c).error h⟩
      raise := fun he => {
        ok := fun h => by cases h
        error := fun h => by
          cases h
          refine ⟨⟨0, Nat.zero_le 1, (Engine.Mute.refl _).stored⟩, fun e he' => ?_⟩
          cases he'
          exact ⟨he, (Engine.Mute.refl _).wrote⟩ } }
  exact hrules.stepOnce

/-- A piece whose returns and errors come after emitted bytes, and that stores at most `N` bytes wherever it stops. -/
structure Cmd.Writes {α : Type} (N : Nat) (x : Cmd α) : Prop where
  ended : ∀ c : Engine, x.wp (fun _ c' => ∃ bs, c.Wrote bs c') (fun _ c' => ∃ bs, c.Wrote bs c') c
  stored : ∀ c : Engine, ∃ n, n ≤ N ∧ c.Stored n (x.after c)

theorem Cmd.Mute.writes {α : Type} {x : Cmd α} (hx : x.Mute) (N : Nat) : x.Writes N where
  ended _ := ⟨fun _ _ h => ⟨[], (hx.of_ok h).wrote⟩, fun _ _ h => ⟨[], (hx.of_error h).wrote⟩⟩
  stored c := ⟨0, Nat.zero_le N, (hx.after c).stored⟩

section
variable {α β : Type} {x : Cmd α} {f : α → Cmd β} {M N : Nat}

theorem Cmd.Writes.bind (hx : x.Writes M) (hf : ∀ a, (f a).Writes N) : (x >>= f).Writes (M + N) where
  ended _ := Cmd.wp_bind ((hx.ended _).mono (fun a c₁ h₁ => by
    obtain ⟨p, hp⟩ := h₁
    exact ((hf a).ended c₁).mono (fun _ _ ⟨q, hq⟩ => ⟨p ++ q, hp.trans hq⟩) fun _ _ ⟨q, hq⟩ => ⟨p ++ q, hp.trans hq⟩)
    fun _ _ => id)
  stored c := by
    obtain ⟨m, hm, hstored⟩ := hx.stored c
    refine Cmd.after_bind_of (P := fun c' => ∃ n, n ≤ M + N ∧ c.Stored n c') ⟨m, hm.trans (Nat.le_add_right M N), hstored⟩
      fun a c₁ hr _ => ?_
    rw [Cmd.after_of_ok hr] at hstored
    obtain ⟨n, hn, hstored'⟩ := (hf a).stored c₁
    exact ⟨m + n, Nat.add_le_add hm hn, hstored.trans hstored'⟩

theorem Cmd.Writes.mono (hx : x.Writes M) (h : M ≤ N) : x.Writes N where
  ended := hx.ended
  stored c := (hx.stored c).imp fun _ hn => ⟨hn.1.trans h, hn.2⟩

/-- A check in front of a piece. -/
theorem Cmd.Writes.require {ok : Bool} {e : Err} (hx : x.Writes N) : (Machine.require ok e >>= fun _ => x).Writes N where
  ended c := Cmd.wp_bind (wp_require (fun _ => hx.ended c) fun _ => ⟨[], (Engine.Mute.refl c).wrote⟩)
  stored c := after_require_bind (P := fun c' => ∃ n, n ≤ N ∧ c.Stored n c')
    ⟨0, Nat.zero_le N, (Engine.Mute.refl c).stored⟩ fun _ => hx.stored c

theorem Cmd.Writes.get_bind {g : Engine → Cmd α} (hg : ∀ c, (g c).Writes N) : (get >>= g).Writes N where
  ended c := Cmd.wp_get_bind ((hg c).ended c)
  stored c := (hg c).stored c
end

theorem writes_emit (b : Byte) : (emit b).Writes 1 where
  ended c := emit_wp ⟨[b], c.wrote_emitted b⟩
  stored c := by
    cases h : (emit b).run c with
    | ok _ c' =>
      rw [Cmd.after_of_ok h, emit_eq_ok h]
      exact ⟨1, le_rfl, (c.wrote_emitted b).stored⟩
    | error st c' =>
      rw [Cmd.after_of_error h]
      exact (emit_stored h).2

theorem writes_copyLoop (d n : Nat) : (copyLoop d n).Writes n := by
  induction n with
  | zero => exact (mute_pure ()).writes 0
  | succ n ih =>
    have hone := ((sequencerClosed_mute.histRead d).writes 0).bind fun b => (writes_emit b).bind fun _ => ih
    exact hone.mono (by omega)

/-- What the loop of `STEP` has emitted when it ends, and has stored where it stops. -/
structure LoopWrites (ecap produced : Nat) (c : Engine) (x : EStateM.Result Stop Engine (Option Word)) : Prop where
  ok : ∀ {r c'}, x = .ok r c' → ∃ bs, produced + bs.length ≤ ecap ∧ r = some (BitVec.ofNat 32 (produced + bs.length)) ∧
    c.Wrote bs c'
  error : ∀ {st c'}, x = .error st c' → (∃ n, produced + n ≤ ecap ∧ c.Stored n c') ∧ ∀ e, st ≠ .raise e

/-- The registers an error of the sequencer writes are none that emitting touches. -/
theorem Engine.Wrote.takeStepError {c c' : Engine} {bs : List Byte} (h : c.Wrote bs c') (e : Err) (p : PState) (r : Word) :
    c.Wrote bs (c'.takeStepError e p r) where
  stored := {
    same := by
      rw [h.stored.same]
      rfl
    dstPos := h.stored.dstPos
    mem := h.stored.mem
    log := h.stored.log
    stores := h.stored.stores }
  ckKind := h.ckKind
  ckState := h.ckState
  outCount := h.outCount
  pushed := h.pushed

theorem stepLoop_writes {ecap k produced : Nat} {c : Engine} (hle : produced ≤ ecap) :
    LoopWrites ecap produced c ((stepLoop ecap k produced).run c) := by
  induction k generalizing produced c with
  | zero =>
    refine ⟨fun h => (by cases h), fun h => ?_⟩
    cases h
    exact ⟨⟨0, hle, (Engine.Mute.refl _).stored⟩, fun e he => by cases he⟩
  | succ k ih =>
    rw [stepLoop_succ_run]
    split
    · refine ⟨fun h => ?_, fun h => (by cases h)⟩
      cases h
      exact ⟨[], hle, rfl, (Engine.Mute.refl c).wrote⟩
    · next hend =>
      have hne : produced ≠ ecap := fun h => hend (.inr h)
      cases hs : stepOnce.run c with
      | ok n c₁ =>
        obtain ⟨bs, hlen, hn, hwrote⟩ := emits_stepOnce.ok hs
        have hrest := ih (produced := produced + n) (c := c₁) (by omega)
        refine ⟨fun h => ?_, fun h => ?_⟩
        · obtain ⟨bs', hle', hr, hwrote'⟩ := hrest.ok h
          refine ⟨bs ++ bs', ?_, ?_, hwrote.trans hwrote'⟩
          · rw [List.length_append]
            omega
          · rw [hr, List.length_append, hlen, Nat.add_assoc]
        · obtain ⟨⟨m, hm, hstored⟩, hno⟩ := hrest.error h
          refine ⟨⟨bs.length + m, by omega, hwrote.stored.trans hstored⟩, hno⟩
      | error st c₁ =>
        obtain ⟨⟨n, hn, hstored⟩, hraise⟩ := emits_stepOnce.error hs
        cases st with
        | raise e =>
          refine ⟨fun h => ?_, fun h => (by cases h)⟩
          cases h
          exact ⟨[], hle, rfl, (hraise e rfl).2.takeStepError _ _ _⟩
        | wait w | fault f | refuse r =>
          refine ⟨fun h => (by cases h), fun h => ?_⟩
          cases h
          exact ⟨⟨n, by omega, hstored⟩, fun e he => by cases he⟩

theorem Engine.budget_le (c : Engine) (cap : BitVec 26) : c.budget cap ≤ cap.toNat := by
  unfold Engine.budget
  split
  · exact Nat.min_le_left _ _
  · exact le_rfl

theorem writes_stepBody (cap : BitVec 26) : (stepBody cap).Writes (2 ^ 26) := by
  have hbudget (c : Engine) : c.budget cap ≤ 2 ^ 26 := (c.budget_le cap).trans cap.isLt.le
  have hloop (c : Engine) := stepLoop_writes (k := c.stepBound (c.budget cap)) (c := c) (Nat.zero_le (c.budget cap))
  have hended (c : Engine) : (stepLoop (c.budget cap) (c.stepBound (c.budget cap)) 0).wp (fun _ c' => ∃ bs, c.Wrote bs c')
      (fun _ c' => ∃ bs, c.Wrote bs c') c :=
    ⟨fun _ _ h => ((hloop c).ok h).imp fun _ hbs => hbs.2.2, fun e _ h => absurd rfl (((hloop c).error h).2 e)⟩
  have hstored (c : Engine) : ∃ n, n ≤ 2 ^ 26 ∧ c.Stored n ((stepLoop (c.budget cap) (c.stepBound (c.budget cap)) 0).after c) := by
    cases h : (stepLoop (c.budget cap) (c.stepBound (c.budget cap)) 0).run c with
    | ok r c' =>
      obtain ⟨bs, hle, -, hwrote⟩ := (hloop c).ok h
      rw [Cmd.after_of_ok h]
      exact ⟨bs.length, by have := hbudget c; omega, hwrote.stored⟩
    | error st c' =>
      obtain ⟨⟨n, hle, hst⟩, -⟩ := (hloop c).error h
      rw [Cmd.after_of_error h]
      exact ⟨n, by have := hbudget c; omega, hst⟩
  have hrefl (c : Engine) : ∃ bs, c.Wrote bs c := ⟨[], (Engine.Mute.refl c).wrote⟩
  have hzero (c : Engine) : ∃ n, n ≤ 2 ^ 26 ∧ c.Stored n c := ⟨0, Nat.zero_le _, (Engine.Mute.refl c).stored⟩
  refine ⟨fun c => Cmd.wp_get_bind ?_, fun c => ?_⟩
  · cases hp : c.pstate with
    | done => exact Cmd.wp_pure (hrefl c)
    | dataError | checksumError | sourceExhausted => exact Cmd.wp_raise (hrefl c)
    | idle | hdr | stored | huff | copy | trailer => exact hended c
  · rw [stepBody, Cmd.after_get_bind]
    cases hp : c.pstate with
    | done | dataError | checksumError | sourceExhausted => exact hzero c
    | idle | hdr | stored | huff | copy | trailer => exact hstored c

/-- A byte that enters the ring alone is not emitted (43_window.md R192). -/
theorem Engine.wrote_ringWritten (c : Engine) (b : Byte) : c.Wrote [] (c.ringWritten b) where
  stored := {
    same := rfl
    dstPos := (noAdvance _ _).symm
    mem := fun _ _ => rfl
    log := List.prefix_rfl
    stores := c.storesWf_ringWritten b }
  ckKind := rfl
  ckState := rfl
  outCount := (BitVec.add_zero _).symm
  pushed _ := ⟨[], (List.append_nil _).symm, rfl⟩

theorem writes_ringWrite (b : Byte) : (ringWrite b).Writes 0 where
  ended c := Cmd.wp_modify ⟨[], c.wrote_ringWritten b⟩
  stored c := ⟨0, le_rfl, (c.wrote_ringWritten b).stored⟩

/-- The commands that reach the checksum accumulator themselves. -/
def loadsChecksum : Instr → Bool
  | .ckinit _ | .ckset _ | .ckbyte _ => true
  | _ => false

theorem writes_stream {x : Cmd (Option Word)} {N : Nat} (hx : x.Writes N) : (requireStream >>= fun _ => x).Writes N :=
  .get_bind fun _ => hx.require

/-- What every command but `INIT` and those of the checksum writes. -/
theorem writes_bodyOf {i : Instr} (hinit : i ≠ .init) (hck : loadsChecksum i = false) : (bodyOf i).Writes (2 ^ 26) := by
  have hmute := sequencerClosed_mute
  cases i with
  | nop => exact (mute_pure none).writes _
  | init => exact absurd rfl hinit
  | step cap => exact writes_stream (writes_stepBody cap)
  | getbits n => exact writes_stream ((hmute.map (hmute.getBits _) some).writes _)
  | getbyte => exact writes_stream ((hmute.map (hmute.getBits 8) some).writes _)
  | align => exact writes_stream ((hmute.alignBits.bind fun _ => mute_pure _).writes _)
  | ckinit | ckset | ckbyte => cases hck
  | lenw idx len => exact ((mute_lenWrite _ _).bind fun _ => mute_pure _).writes _
  | lenr idx => exact ((hmute.lenRead _).bind fun _ => mute_pure _).writes _
  | build slot base num =>
    exact ((hmute.readLens _ _).bind fun _ => (mute_buildTree _ _).bind fun _ => mute_pure _).writes _
  | fixed => exact (hmute.loadFixed.bind fun _ => mute_pure _).writes _
  | decode slot => exact writes_stream (((hmute.decodeSymbol _).bind fun _ => mute_pure _).writes _)
  | put b =>
    have hput := ((writes_emit b).bind fun _ => (mute_pure (some (0 : Word))).writes 0).mono (N := 2 ^ 26) (by decide)
    exact writes_stream (.get_bind fun _ => hput.require)
  | get dist =>
    have hget (d : Nat) := ((hmute.histRead d).bind fun b => mute_pure (some (b.setWidth 32 : Word))).writes (2 ^ 26)
    exact writes_stream (.get_bind fun _ => (hget _).require)
  | copy len dist =>
    have hcopy (d : Nat) := ((writes_copyLoop d len.toNat).bind fun _ => (mute_pure (some (len.setWidth 32 : Word))).writes 0).mono
      (N := 2 ^ 26) (by have := len.isLt; omega)
    exact writes_stream (.get_bind fun _ => (hcopy _).require.require)
  | preload b =>
    have hring := ((writes_ringWrite b).bind fun _ => (mute_pure (some (0 : Word))).writes 0).mono (N := 2 ^ 26) (by decide)
    exact writes_stream (.get_bind fun _ => hring.require)

/-! ### Every command -/

theorem exec_init_eq_next {s t : State} (h : exec .init s = .next t) :
    t = s.complete { s.toEngine.cleared.startStream with result := 0 } := by
  cases hover : s.toEngine.hostConfig.overlaps with
  | true => cases (exec_init_of_overlap hover).symm.trans h
  | false => exact (Host.Outcome.next.inj ((exec_init_of_apart hover).symm.trans h)).symm

/-- A command leaves what its body leaves, or with an illegal operand what it began with, but for `RESULT` and `ERR`. -/
theorem exec_engine {i : Instr} {s t : State} (h : exec i s = .next t) :
    ∃ c r e, t.toEngine = { c with result := r, err := e } ∧ (c = (bodyOf i).after s.toEngine.cleared ∨ c = s.toEngine.cleared) := by
  rcases exec_eq_next h with ⟨-, rfl⟩ | ⟨-, ⟨r, c, hr, rfl⟩ | ⟨e, c, hr, rfl⟩ | ⟨w, c, hr, rfl⟩⟩
  · exact ⟨s.toEngine.cleared, _, _, rfl, .inr rfl⟩
  · exact ⟨c, r.getD c.result, c.err, rfl, .inl (Cmd.after_of_ok hr).symm⟩
  · exact ⟨c, 0, e, rfl, .inl (Cmd.after_of_error hr).symm⟩
  · exact ⟨c, c.result, c.err, rfl, .inl (Cmd.after_of_error hr).symm⟩

/-- `RESULT` and `ERR` are no stored bytes. -/
theorem Engine.Stored.reported {c c' : Engine} {n : Nat} (h : c.Stored n c') (r : Word) (e : Err) :
    c.Stored n { c' with result := r, err := e } where
  same := by
    rw [h.same]
  dstPos := h.dstPos
  mem := h.mem
  log := h.log
  stores := h.stores

theorem Engine.stored_cleared (c : Engine) : c.Stored 0 c.cleared := (Engine.Mute.refl c).stored.reported c.result .none

/-- Every command but `INIT` stores only from the resident cursor on, wherever it ends. -/
theorem exec_stored {i : Instr} {s t : State} (hinit : i ≠ .init) (h : exec i s = .next t) :
    ∃ n, n ≤ 2 ^ 26 ∧ s.toEngine.Stored n t.toEngine := by
  obtain ⟨c, r, e, ht, hc⟩ := exec_engine h
  rw [ht]
  have hbody : ∃ n, n ≤ 2 ^ 26 ∧ s.toEngine.cleared.Stored n ((bodyOf i).after s.toEngine.cleared) := by
    cases hck : loadsChecksum i with
    | false => exact (writes_bodyOf hinit hck).stored _
    | true =>
      refine ⟨0, Nat.zero_le _, ?_⟩
      cases i with
      | ckinit | ckset | ckbyte =>
        exact { same := rfl, dstPos := (noAdvance _ _).symm, mem := fun _ _ => rfl, log := List.prefix_rfl, stores := id }
      | _ => cases hck
  rcases hc with rfl | rfl
  · obtain ⟨n, hn, hstored⟩ := hbody
    have hall := s.toEngine.stored_cleared.trans hstored
    rw [Nat.zero_add] at hall
    exact ⟨n, hn, hall.reported r e⟩
  · exact ⟨0, Nat.zero_le _, s.toEngine.stored_cleared.reported r e⟩

/-! ### The statements -/

/-- Settles O51: every command but `INIT` stores only the bytes it moves the resident cursor over. -/
theorem commandsStoreOnlyAtTheDestinationCursor : Obligations.CommandsStoreOnlyAtTheDestinationCursor := by
  intro i s t hinit h
  obtain ⟨n, hn, hstored⟩ := exec_stored hinit h
  refine ⟨fun a ha => hstored.mem_outside (by omega) ha, fun hres => by rw [hstored.dstPos, hres]; rfl,
    fun hok => ⟨fun b hi hres => ?_, fun n d hi hres => ?_⟩⟩
  · subst hi
    obtain ⟨-, -, -, rfl⟩ := exec_put_ok h hok
    refine ⟨if_pos hres, ?_⟩
    show Cells.read (if s.latch.ctrl.dstRes then _ else _) _ = _
    rw [if_pos hres]
    exact Cells.read_write_same _ _ _
  · subst hi
    obtain ⟨-, -, -, -, c, hloop, rfl⟩ := exec_copy_ok h hok
    obtain ⟨-, -, hpos⟩ := copyLoop_dstPos hloop
    have hwide : BitVec.ofNat 32 n.toNat = n.setWidth 32 := by bv_omega
    rw [← hwide]
    exact hpos hres

/-- Settles O52: what a completed command has pushed is what it has emitted, and each emitted byte is one update. -/
theorem checksumCoversExactlyThePushedBytes : Obligations.ChecksumCoversExactlyThePushedBytes := by
  intro i s t hinit hckinit hckset hckbyte hpush h hbusy
  have hck : loadsChecksum i = false := by
    cases i with
    | ckinit k => exact absurd rfl (hckinit k)
    | ckset k => exact absurd rfl (hckset k)
    | ckbyte b => exact absurd rfl (hckbyte b)
    | _ => rfl
  have hended := (writes_bodyOf hinit hck).ended s.toEngine.cleared
  have hdone {c : Engine} (hw : ∃ bs, s.toEngine.cleared.Wrote bs c) : ∃ bs : List Byte,
      pushedBytes c.ports.log = pushedBytes s.ports.log ++ bs ∧ c.ckKind = s.ckKind ∧ c.ckState = bs.foldl s.ckKind.update s.ckState := by
    obtain ⟨bs, hw⟩ := hw
    obtain ⟨evs, hlog, hevs⟩ := hw.pushed hpush
    exact ⟨bs, by rw [hlog, pushedBytes_append, hevs]; rfl, hw.ckKind, hw.ckState⟩
  rcases exec_eq_next h with ⟨-, rfl⟩ | ⟨-, ⟨r, c, hr, rfl⟩ | ⟨e, c, hr, rfl⟩ | ⟨w, c, hr, rfl⟩⟩
  · exact ⟨[], (List.append_nil _).symm, rfl, rfl⟩
  · exact hdone (c := c) (hended.ok r c hr)
  · exact hdone (c := c) (hended.raise e c hr)
  · cases hbusy

theorem stepRun_writes (left : Nat) (c : Engine) : LoopWrites left 0 c (stepRun left 0 c) := by
  have h := stepLoop_writes (k := c.stepBound left) (c := c) (Nat.zero_le left)
  rwa [stepRun, Nat.zero_add]

theorem exec_step_of_failed {s : State} (cap : BitVec 26) (h : s.pstate.failed = true) :
    exec (.step cap) s = .next (s.complete (s.toEngine.cleared.takeError s.streamErr)) := by
  have hidle : s.pstate ≠ .idle := by
    rintro hidle
    rw [hidle] at h
    cases h
  exact exec_of_raise (i := .step cap) rfl ((streamBody_run hidle).trans (stepBody_run_of_failed cap h))

/-- How a completed `STEP` ended: without a stream, on a failed stream, or behind the loop, which raises nothing of its own. -/
theorem exec_step_cases {s t : State} {cap : BitVec 26} (h : exec (.step cap) s = .next t) (hbusy : t.busy = false) :
    (s.pstate = .idle ∧ t = s.complete (s.toEngine.cleared.takeError .noStream)) ∨
    (s.pstate.failed = true ∧ t = s.complete (s.toEngine.cleared.takeError s.streamErr)) ∨
    (s.pstate.Live ∧ ∃ r c, stepRun (s.toEngine.budget cap) 0 s.toEngine.cleared = .ok (some r) c ∧
      t = s.complete (c.withResult r)) := by
  by_cases hidle : s.pstate = .idle
  · refine .inl ⟨hidle, ?_⟩
    have hrun : (bodyOf (.step cap)).run s.toEngine.cleared = .error (.raise .noStream) s.toEngine.cleared := by
      simp [bodyOf, hidle]
    exact (Host.Outcome.next.inj ((exec_of_raise (i := .step cap) rfl hrun).symm.trans h)).symm
  by_cases hfailed : s.pstate.failed = true
  · exact .inr (.inl ⟨hfailed, (Host.Outcome.next.inj ((exec_step_of_failed cap hfailed).symm.trans h)).symm⟩)
  have hlive : s.pstate.Live := s.pstate.live_of_not hidle hfailed
  have hbody : (bodyOf (.step cap)).run s.toEngine.cleared = stepRun (s.toEngine.budget cap) 0 s.toEngine.cleared :=
    (streamBody_run hidle).trans (stepBody_run_of_live (c := s.toEngine.cleared) cap hlive)
  have hwrites := stepRun_writes (s.toEngine.budget cap) s.toEngine.cleared
  rcases exec_eq_next h with ⟨hwf, -⟩ | ⟨-, ⟨r, c, hr, rfl⟩ | ⟨e, c, hr, rfl⟩ | ⟨w, c, hr, rfl⟩⟩
  · cases hwf
  · rw [hbody] at hr
    obtain ⟨bs, -, rfl, -⟩ := hwrites.ok hr
    exact .inr (.inr ⟨hlive, _, c, hr, rfl⟩)
  · rw [hbody] at hr
    exact absurd rfl ((hwrites.error hr).2 e)
  · cases hbusy

theorem Engine.budget_le_room {c : Engine} (cap : BitVec 26) (h : c.latch.ctrl.dstRes = true) : c.budget cap ≤ c.room := by
  rw [Engine.budget, if_pos h]
  exact Nat.min_le_right _ _

/-- Settles O47: the loop ends with the number of bytes it has emitted, and the budget is within the operand and the room. -/
theorem stepResultCountsTheEmittedBytes : Obligations.StepResultCountsTheEmittedBytes := by
  intro cap s t h hbusy
  rcases exec_step_cases h hbusy with ⟨-, rfl⟩ | ⟨-, rfl⟩ | ⟨-, r, c, hr, rfl⟩
  · exact ⟨Nat.zero_le _, fun _ => Nat.zero_le _, (BitVec.add_zero _).symm, (noAdvance _ _).symm, fun _ => rfl⟩
  · exact ⟨Nat.zero_le _, fun _ => Nat.zero_le _, (BitVec.add_zero _).symm, (noAdvance _ _).symm, fun _ => rfl⟩
  · obtain ⟨bs, hle, hcount, hwrote⟩ := (stepRun_writes _ _).ok hr
    rw [Nat.zero_add] at hle hcount
    cases hcount
    have hcap := s.toEngine.budget_le cap
    have hnat : (BitVec.ofNat 32 bs.length).toNat = bs.length := by
      rw [BitVec.toNat_ofNat]
      exact Nat.mod_eq_of_lt (by have := cap.isLt; omega)
    refine ⟨hnat.trans_le (hle.trans hcap), fun hres => hnat.trans_le (hle.trans (s.toEngine.budget_le_room cap hres)),
      hwrote.outCount, hwrote.stored.dstPos, fun hpush => ?_⟩
    obtain ⟨evs, hlog, hevs⟩ := hwrote.pushed hpush
    show (pushedBytes c.ports.log).length = (pushedBytes s.ports.log).length + (BitVec.ofNat 32 bs.length).toNat
    rw [hlog, pushedBytes_append, hevs, List.length_append, hnat]
    rfl

/-! ### The frame of each command: 10_state.md section 3 -/

/-- What emitting changes. -/
def OutFrame (c c' : Engine) : Prop :=
  c' = { c with
    ring := c'.ring, ringIdx := c'.ringIdx, ringFill := c'.ringFill, ckState := c'.ckState, dstPos := c'.dstPos
    outCount := c'.outCount, outSat := c'.outSat, mem := c'.mem, ports := c'.ports }

theorem OutFrame.refl (c : Engine) : OutFrame c c := rfl

theorem OutFrame.trans {a b c : Engine} (h : OutFrame a b) (h' : OutFrame b c) : OutFrame a c := by
  unfold OutFrame at *
  rw [h] at h'
  exact h'

theorem emit_outFrame (b : Byte) (c : Engine) : OutFrame c ((emit b).after c) := by
  by_cases hres : c.latch.ctrl.dstRes = true → c.platform.backs (c.latch.dstBase + c.dstPos) = true
  · by_cases hpush : c.latch.ctrl.dstPush = true → c.ports.pushReady ≠ 0
    · rw [Cmd.after_of_ok (emit_run_of_ready hres hpush)]
      exact rfl
    · obtain ⟨hpush, hq⟩ := Classical.not_imp.mp hpush
      rw [Cmd.after_of_error (emit_run_of_not_accepted hpush (not_not.mp hq) hres)]
      exact rfl
  · obtain ⟨hres, hbacks⟩ := Classical.not_imp.mp hres
    rw [Cmd.after_of_error (emit_run_of_unbacked hres (by simpa using hbacks))]
    exact rfl

theorem copyLoop_outFrame (d n : Nat) (c : Engine) : OutFrame c ((copyLoop d n).after c) := by
  induction n generalizing c with
  | zero => exact .refl c
  | succ n ih =>
    refine Cmd.after_bind OutFrame .trans _ _ c ?_ fun b c' => Cmd.after_bind OutFrame .trans _ _ c' (emit_outFrame b c')
      fun _ c'' => ih c''
    obtain ⟨p, hp⟩ := histRead_after d c
    rw [hp]
    exact rfl

theorem readLens_after (base num : Nat) (c : Engine) : (readLens base num).after c = c := by
  have hlen (i : Nat) (c : Engine) : (lenRead i).after c = c := by
    rw [Cmd.after, lenRead_run]
    cases c.len.read i <;> rfl
  have htrans {a b c : Engine} (h : b = a) (h' : c = b) : c = a := h'.trans h
  induction num generalizing base c with
  | zero => rfl
  | succ num ih =>
    exact Cmd.after_bind (fun c c' => c' = c) htrans _ _ c (hlen base c) fun v c₁ =>
      Cmd.after_bind (fun c c' => c' = c) htrans _ _ c₁ (ih _ _) fun _ _ => rfl

/-- Writing trees changes the trees. -/
def TreeFrame (c c' : Engine) : Prop := c' = { c with lt := c'.lt, dt := c'.dt, ct := c'.ct }

theorem TreeFrame.trans {a b c : Engine} (h : TreeFrame a b) (h' : TreeFrame b c) : TreeFrame a c := by
  unfold TreeFrame at *
  rw [h] at h'
  exact h'

theorem buildTree_treeFrame (sl : Slot) (ls : List (BitVec 4)) (c : Engine) : TreeFrame c ((buildTree sl ls).after c) := by
  have hset (t : Tree) : TreeFrame c (c.setTree sl t) := by cases sl <;> exact rfl
  rw [Cmd.after, buildTree_run]
  split
  · next h =>
    split at h <;> cases h
    exact hset _
  · next h =>
    split at h <;> cases h
    exact hset _

theorem loadFixed_treeFrame (c : Engine) : TreeFrame c (loadFixed.after c) :=
  Cmd.after_bind TreeFrame .trans _ _ c (buildTree_treeFrame _ _ c) fun _ c' => buildTree_treeFrame _ _ c'

/-- The units a command other than `INIT` and `STEP` can change, but for `RESULT` and `ERR`. -/
def unitFrame : Instr → Engine → Engine → Prop
  | .init, _, _ | .step _, _, _ => True
  | .getbits _, c, c' | .getbyte, c, c' | .align, c, c' | .decode _, c, c' => BitFrame c c'
  | .lenw .., c, c' => c' = { c with len := c'.len }
  | .build .., c, c' | .fixed, c, c' => TreeFrame c c'
  | .ckinit _, c, c' | .ckset _, c, c' | .ckbyte _, c, c' => c' = { c with ckKind := c'.ckKind, ckState := c'.ckState }
  | .put _, c, c' | .copy .., c, c' => OutFrame c c'
  | .get _, c, c' => c' = { c with ports := c'.ports }
  | .preload _, c, c' => c' = { c with ring := c'.ring, ringIdx := c'.ringIdx, ringFill := c'.ringFill }
  | .nop, c, c' | .lenr _, c, c' => c' = c

theorem unitFrame_refl (i : Instr) (c : Engine) : unitFrame i c c := by
  cases i with
  | init | step => exact trivial
  | _ => exact rfl

theorem unitFrame_bodyOf (i : Instr) (c : Engine) : unitFrame i c ((bodyOf i).after c) := by
  have hrefl := unitFrame_refl i c
  cases i with
  | init | step => exact trivial
  | nop | lenw | ckinit | ckset | ckbyte => exact rfl
  | getbits n =>
    exact after_requireStream_bind hrefl (Cmd.after_bind BitFrame .trans _ _ c (getBits_frame _ c) fun _ _ => rfl)
  | getbyte =>
    exact after_requireStream_bind hrefl (Cmd.after_bind BitFrame .trans _ _ c (getBits_frame _ c) fun _ _ => rfl)
  | align => exact after_requireStream_bind hrefl rfl
  | lenr idx =>
    show ((lenRead idx.toNat >>= fun v => pure (some (v.setWidth 32)) : Cmd (Option Word)).after c) = c
    rw [Cmd.after, EStateM.run_bind, lenRead_run]
    cases c.len.read idx.toNat <;> rfl
  | build slot base num =>
    refine Cmd.after_bind TreeFrame .trans _ _ c ?_ fun ls c' =>
      Cmd.after_bind TreeFrame .trans _ _ c' (buildTree_treeFrame _ _ c') fun _ _ => rfl
    rw [readLens_after]
    exact rfl
  | fixed => exact Cmd.after_bind TreeFrame .trans _ _ c (loadFixed_treeFrame c) fun _ _ => rfl
  | decode slot =>
    exact after_requireStream_bind hrefl (Cmd.after_bind BitFrame .trans _ _ c (decodeSymbol_frame _ c) fun _ _ => rfl)
  | put b =>
    exact after_requireStream_bind hrefl (after_require_bind hrefl fun _ =>
      Cmd.after_bind OutFrame .trans _ _ c (emit_outFrame b c) fun _ _ => rfl)
  | get dist =>
    refine after_requireStream_bind hrefl (after_require_bind hrefl fun _ => ?_)
    obtain ⟨p, hp⟩ := histRead_after dist.toNat c
    refine Cmd.after_bind_of (P := fun c' => c' = { c with ports := c'.ports }) ?_ fun _ _ _ h => h
    rw [hp]
    rfl
  | copy len dist =>
    exact after_requireStream_bind hrefl (after_require_bind hrefl fun _ => after_require_bind hrefl fun _ =>
      Cmd.after_bind OutFrame .trans _ _ c (copyLoop_outFrame _ _ c) fun _ _ => rfl)
  | preload b => exact after_requireStream_bind hrefl (after_require_bind hrefl fun _ => rfl)

/-- Settles O50: no command leaves its `unitFrame`; what `INIT` and `STEP` keep stands beside it. -/
theorem commandsWriteOnlyTheirUnits : Obligations.CommandsWriteOnlyTheirUnits := by
  intro i s t h
  obtain ⟨hdrop, hhostq, hreads⟩ := exec_outside h
  by_cases hinit : i = .init
  · subst hinit
    obtain rfl := exec_init_eq_next h
    simp [Engine.startStream, Engine.cleared]
  obtain ⟨n, -, hstored⟩ := exec_stored hinit h
  have hsame := hstored.same
  obtain ⟨c, r, e, ht, hc⟩ := exec_engine h
  have hframe : unitFrame i s.toEngine.cleared c := by
    rcases hc with rfl | rfl
    · exact unitFrame_bodyOf i _
    · exact unitFrame_refl i _
  refine ⟨by rw [hsame, hdrop, hhostq, hreads]; simp, fun _ => hstored.latch, ?_⟩
  cases i with
  | init => exact absurd rfl hinit
  | step cap => simp
  | _ =>
    simp only [unitFrame, BitFrame, OutFrame, TreeFrame] at hframe
    rw [ht, hframe]
    simp [Engine.cleared]

/-! ### The stores stay canonical: 20_memory.md R62 -/

theorem State.storesWf_iff (s : State) : s.storesWf = true ↔
    s.toEngine.storesWf = true ∧ ∀ r, s.running = some r → r.start.storesWf = true := by
  rw [State.storesWf, Bool.and_eq_true]
  cases s.running <;> simp

theorem storesWf_exec {i : Instr} {s t : State} (hs : s.toEngine.storesWf = true) (h : exec i s = .next t) : t.storesWf = true := by
  refine t.storesWf_iff.mpr ⟨?_, fun r hr => ?_⟩
  · by_cases hinit : i = .init
    · subst hinit
      obtain rfl := exec_init_eq_next h
      exact hs
    · obtain ⟨n, -, hstored⟩ := exec_stored hinit h
      exact hstored.stores hs
  · rw [exec_eq_runCmd] at h
    rcases runCmd_running h with ⟨hnone, -⟩ | ⟨w, hsome, -⟩
    · cases hnone.symm.trans hr
    · cases hsome.symm.trans hr
      exact hs

/-- One part of the host's side keeps the stores canonical. -/
def KeepsStores (f : State → Host.Outcome State Fault Refusal) : Prop :=
  ∀ s t : State, s.storesWf = true → f s = .next t → t.storesWf = true

theorem keepsStores_deliver {f : Engine → Engine} (hf : ∀ c : Engine, c.storesWf = true → (f c).storesWf = true) :
    KeepsStores (deliver f) := by
  intro s t hs ht
  obtain ⟨hengine, hstart⟩ := s.storesWf_iff.mp hs
  cases hr : s.running with
  | none =>
    rw [deliver_idle f s hr] at ht
    cases ht
    exact (State.storesWf_iff _).mpr ⟨hf _ hengine, hstart⟩
  | some r =>
    rw [deliver_running f s r hr] at ht
    exact storesWf_exec (s := { s with toEngine := f r.start }) (hf r.start (hstart r hr)) ht

theorem keepsStores_hwReset : KeepsStores fun s => .next s.hwReset := by
  rintro s _ hs ⟨⟩
  obtain ⟨hmem, -⟩ := s.toEngine.storesWf_iff.mp (s.storesWf_iff.mp hs).1
  exact (State.storesWf_iff _).mpr
    ⟨(Engine.storesWf_iff _).mpr ⟨hmem, rfl, rfl, rfl, rfl, rfl, rfl, rfl, rfl⟩, fun r h => by cases h⟩

theorem keepsStores_cmdWrite (w : Word) : KeepsStores (cmdWrite w) := by
  intro s t hs ht
  unfold cmdWrite at ht
  split at ht
  · cases ht
    exact hs
  · split at ht
    · exact storesWf_exec (s := s.accept) (s.storesWf_iff.mp hs).1 ht
    · cases ht
      exact (State.storesWf_iff _).mpr ⟨(s.storesWf_iff.mp hs).1, fun r h => by cases h⟩

theorem Engine.storesWf_regWrite (c : Engine) (off : Nat) (v : Word) : (c.regWrite off v).storesWf = c.storesWf := by
  unfold Engine.regWrite
  split <;> rfl

theorem keepsStores_busWrite (a : Addr) (lanes : List Byte) : KeepsStores (busWrite a lanes) := by
  intro s t hs ht
  unfold busWrite at ht
  split at ht
  · cases ht
    exact hs
  · split at ht
    · exact keepsStores_cmdWrite _ s t hs ht
    · split at ht <;> cases ht
      · exact hs
      · obtain ⟨hengine, hstart⟩ := s.storesWf_iff.mp hs
        exact (State.storesWf_iff _).mpr ⟨(s.toEngine.storesWf_regWrite _ _).trans hengine, hstart⟩

theorem Engine.storesWf_hostStore {c : Engine} (a : Addr) (b : Byte) (h : c.storesWf = true) : (c.hostStore a b).storesWf = true := by
  obtain ⟨hmem, hrest⟩ := c.storesWf_iff.mp h
  unfold Engine.hostStore
  split
  · exact (Engine.storesWf_iff _).mpr ⟨Cells.wf_write _ _ _ hmem, hrest⟩
  · exact h

theorem keepsStores_hostMemWrite (a : Addr) (b : Byte) : KeepsStores (hostMemWrite a b) := by
  intro s t hs ht
  unfold hostMemWrite at ht
  split at ht
  · cases ht
  · exact keepsStores_deliver (fun _ => Engine.storesWf_hostStore a b) s t hs ht

theorem keepsStores_besideProgram {act : HostAction} {f : State → Host.Outcome State Fault Refusal}
    (h : act.besideProgram = some f) : KeepsStores f := by
  cases act with
  | reset =>
    cases h
    exact keepsStores_hwReset
  | pullAnswer | pushAccept | readDestAnswer =>
    cases h
    exact keepsStores_deliver fun _ => id
  | write | read | memWrite | wait => cases h

theorem keepsStores_firstBesideProgram {acts rest : List HostAction} {f : State → Host.Outcome State Fault Refusal}
    (h : firstBesideProgram acts = some (f, rest)) : KeepsStores f := by
  induction acts generalizing rest with
  | nil => cases h
  | cons act acts ih =>
    unfold firstBesideProgram at h
    split at h
    · cases h
      exact keepsStores_besideProgram ‹_›
    · obtain ⟨⟨g, before⟩, hp, he⟩ := Option.map_eq_some_iff.mp h
      cases he
      exact ih hp

theorem keepsStores_hostWait : KeepsStores hostWait := by
  intro s t hs ht
  unfold hostWait at ht
  split at ht
  · split at ht
    · next f rest hf => exact keepsStores_firstBesideProgram hf { s with hostq := .wait :: rest } t hs ht
    · cases ht
      exact hs
  · cases ht
    exact hs

theorem keepsStores_hostAct (act : HostAction) : KeepsStores (hostAct act) := by
  cases act with
  | write a lanes => exact keepsStores_busWrite a lanes
  | read a n =>
    rintro s _ hs ⟨⟩
    exact hs
  | reset => exact keepsStores_hwReset
  | memWrite a b => exact keepsStores_hostMemWrite a b
  | pullAnswer p => exact keepsStores_deliver (f := fun c => c.offerPull p) fun _ => id
  | pushAccept => exact keepsStores_deliver (f := fun c => c.offerPush) fun _ => id
  | readDestAnswer b => exact keepsStores_deliver (f := fun c => c.offerReadDest b) fun _ => id
  | wait => exact keepsStores_hostWait

/-- Settles O55: commands and host writes reach the stores through writes that keep the indexes rising. -/
theorem stepKeepsStoresCanonical : Obligations.StepKeepsStoresCanonical := by
  intro s t hs ht
  cases hq : s.hostq with
  | nil =>
    rw [step_quiet s hq] at ht
    cases ht
    exact hs
  | cons act rest =>
    rw [step_act s act rest hq] at ht
    exact keepsStores_hostAct act { s with hostq := rest } t hs ht

end Sys2Proof.Machine
end

section
/-! SUPPORT. The loop of `STEP` by what it leaves with `RESULT` written (44_inflate.md R224, R238), and the passes of the sequencer
against the host-level commands that read the same bits (R226 to R232). At the end the settled statements. -/

namespace Sys2Proof.Machine

/-! ### What `STEP` leaves -/

/-- The engine a piece leaves that returns, the value it returned written to `RESULT`. -/
def endOf : EStateM.Result Stop Engine (Option Word) → Option Engine
  | .ok r c => some (c.withResult (r.getD c.result))
  | .error _ _ => none

/-- The engine the loop of `STEP` ends with, `RESULT` written; none where it waits or faults. -/
def stepEnd (left produced : Nat) (c : Engine) : Option Engine := endOf (stepRun left produced c)

/-- A byte count added to `RESULT`. -/
def Engine.addResult (c : Engine) (q : Nat) : Engine := c.withResult (c.result + BitVec.ofNat 32 q)

section
variable {c c' : Engine} {left produced n : Nat}

theorem stepEnd_zero (produced : Nat) (c : Engine) : stepEnd 0 produced c = some (c.withResult (BitVec.ofNat 32 produced)) := by
  rw [stepEnd, stepRun_zero]
  rfl

theorem stepEnd_done (hp : c.pstate = .done) : stepEnd left produced c = some (c.withResult (BitVec.ofNat 32 produced)) := by
  rw [stepEnd, stepRun_done hp]
  rfl

theorem stepEnd_of_pass (hp : c.pstate.active = true) (hleft : left ≠ 0) (h : stepOnce.run c = .ok n c') :
    stepEnd left produced c = stepEnd (left - n) (produced + n) c' := by
  rw [stepEnd, stepRun_eq hp hleft, h]
  rfl

theorem stepEnd_of_raise {e : Err} (hp : c.pstate.active = true) (hleft : left ≠ 0) (h : stepOnce.run c = .error (.raise e) c') :
    stepEnd left produced c = some (c'.takeStepError e e.terminal (BitVec.ofNat 32 produced)) := by
  rw [stepEnd, stepRun_eq hp hleft, h]
  rfl
end

/-- The loop does not see the `RESULT` of the command before. -/
theorem endOf_stepLoop_withResult (r : Word) (ecap k produced : Nat) (c : Engine) :
    endOf ((stepLoop ecap k produced).run (c.withResult r)) = endOf ((stepLoop ecap k produced).run c) := by
  induction k generalizing produced c with
  | zero => rfl
  | succ k ih =>
    have hp : (c.withResult r).pstate = c.pstate := rfl
    rw [stepLoop_succ_run, stepLoop_succ_run, hp, (commutes_stepOnce r).run]
    by_cases hend : c.pstate = .done ∨ produced = ecap
    · rw [if_pos hend, if_pos hend]
      rfl
    · rw [if_neg hend, if_neg hend]
      cases stepOnce.run c with
      | ok n c' => exact ih _ c'
      | error stop c' => cases stop <;> rfl

theorem stepEnd_withResult (r : Word) (left produced : Nat) (c : Engine) :
    stepEnd left produced (c.withResult r) = stepEnd left produced c := endOf_stepLoop_withResult r _ _ _ c

/-- Bytes produced before only add to the count. -/
theorem endOf_stepLoop_add (q ecap k produced : Nat) (c : Engine) :
    endOf ((stepLoop (ecap + q) k (produced + q)).run c) = (endOf ((stepLoop ecap k produced).run c)).map (·.addResult q) := by
  induction k generalizing produced c with
  | zero => rfl
  | succ k ih =>
    rw [stepLoop_succ_run, stepLoop_succ_run]
    by_cases hend : c.pstate = .done ∨ produced = ecap
    · rw [if_pos hend, if_pos (hend.imp_right fun h => congrArg (· + q) h), BitVec.ofNat_add]
      rfl
    · rw [if_neg hend, if_neg fun h => hend (h.imp_right Nat.add_right_cancel)]
      cases stepOnce.run c with
      | ok n c' =>
        have h := ih (produced + n) c'
        rw [Nat.add_right_comm] at h
        exact h
      | error stop c' =>
        cases stop with
        | raise e =>
          dsimp only
          rw [BitVec.ofNat_add]
          rfl
        | wait | fault | refuse => rfl

theorem stepEnd_add (q left produced : Nat) (c : Engine) :
    stepEnd left (produced + q) c = (stepEnd left produced c).map (·.addResult q) := by
  have h := endOf_stepLoop_add q (produced + left) (c.stepBound left) produced c
  rw [Nat.add_right_comm] at h
  exact h

/-- A completed `STEP` of a running or finished stream is the end of its loop. -/
theorem exec_step_iff {s w : State} {cap : BitVec 26} (hlive : s.pstate.Live) (hbusy : w.busy = false) :
    exec (.step cap) s = .next w ↔
      ∃ c, stepEnd (s.toEngine.budget cap) 0 s.toEngine.cleared = some c ∧ w = s.complete c := by
  have hidle : s.pstate ≠ .idle := by
    rintro h
    rw [h] at hlive
    exact hlive.elim (fun h => by cases h) fun h => by cases h
  constructor
  · intro h
    rcases exec_step_cases h hbusy with ⟨hno, -⟩ | ⟨hfailed, -⟩ | ⟨-, r, c, hr, rfl⟩
    · exact absurd hno hidle
    · rcases hlive with hp | hp
      · cases hs : s.pstate <;> simp [hs, PState.active, PState.failed] at hp hfailed
      · rw [hp] at hfailed
        cases hfailed
    · exact ⟨_, by rw [stepEnd, hr]; rfl, rfl⟩
  · rintro ⟨c, hend, rfl⟩
    rw [stepEnd] at hend
    cases hr : stepRun (s.toEngine.budget cap) 0 s.toEngine.cleared with
    | error stop c' =>
      rw [hr] at hend
      cases hend
    | ok r c' =>
      rw [hr] at hend
      cases hend
      exact exec_of_ok (i := .step cap) rfl
        ((streamBody_run hidle).trans ((stepBody_run_of_live (c := s.toEngine.cleared) cap hlive).trans hr))

/-! ### One budget or two: 44_inflate.md R238 -/

/-- From `c`, `left` bytes of the budget left, the loop came to `c'` without an error: after `n` bytes it was done or had used its budget,
and a loop with more budget goes on from there. -/
structure EndsWell (left produced : Nat) (c : Engine) (n : Nat) (c' : Engine) : Prop where
  le : n ≤ left
  stop : c'.pstate = .done ∨ n = left
  live : c'.pstate.Live
  result : c'.result = BitVec.ofNat 32 (produced + n)
  stored : c.Stored n c'
  resume : ∀ more, stepEnd (left + more) produced c = stepEnd (left + more - n) (produced + n) c'

theorem stepLoop_endsWell {k left produced : Nat} {c c' : Engine} (hlive : c.pstate.Live)
    (h : endOf ((stepLoop (produced + left) k produced).run c) = some c') (herr : c'.err = .none) :
    ∃ n, EndsWell left produced c n c' := by
  induction k generalizing left produced c with
  | zero => cases h
  | succ k ih =>
    rw [stepLoop_succ_run] at h
    split at h
    · next hend =>
      cases h
      refine ⟨0, Nat.zero_le left, hend.imp_right (by omega), hlive, rfl, (Engine.Mute.refl c).stored.reported _ _, fun more => ?_⟩
      exact (stepEnd_withResult _ _ _ c).symm
    · next hend =>
      obtain ⟨hdone, hne⟩ := not_or.mp hend
      have hp : c.pstate.active = true := hlive.active hdone
      cases hs : stepOnce.run c with
      | error stop c₁ =>
        rw [hs] at h
        cases stop with
        | raise e =>
          cases h
          exact absurd herr (Err.ne_none_of_fromStep ((emits_stepOnce.error hs).2 e rfl).1)
        | wait | fault | refuse => cases h
      | ok m c₁ =>
        obtain ⟨bs, rfl, hm, hwrote⟩ := emits_stepOnce.ok hs
        have hlive₁ := ((stepOnce_live hlive).ok _ c₁ hs).2
        rw [hs] at h
        obtain ⟨n, hn⟩ := ih (left := left - bs.length) (produced := produced + bs.length) hlive₁
          (by rwa [show produced + bs.length + (left - bs.length) = produced + left by omega])
        refine ⟨bs.length + n, by have := hn.le; omega, hn.stop.imp_right (by omega), hn.live, by rw [hn.result, Nat.add_assoc],
          hwrote.stored.trans hn.stored, fun more => ?_⟩
        have hresume := hn.resume more
        rw [stepEnd_of_pass hp (by omega) hs, show left + more - bs.length = left - bs.length + more by omega, hresume]
        rw [show left - bs.length + more - n = left + more - (bs.length + n) by omega, Nat.add_assoc]

/-- The budget of both operands together is that of the first and what is left then of the second. -/
theorem Engine.budget_add {c c' : Engine} {a b : BitVec 26} (hsum : a.toNat + b.toNat < 2 ^ 26)
    (h : c.Stored (c.budget a) c') : c.budget (a + b) = c.budget a + c'.budget b := by
  have hnat : (a + b).toNat = a.toNat + b.toNat := by rw [BitVec.toNat_add, Nat.mod_eq_of_lt hsum]
  have hpos := h.dstPos
  unfold Engine.budget Engine.room at *
  rw [h.latch, hnat]
  by_cases hres : c.latch.ctrl.dstRes = true
  · rw [if_pos hres] at hpos ⊢
    simp only [hres, if_true] at hpos ⊢
    rw [hpos]
    have hroom := (c.latch.dstLen - c.dstPos).isLt
    have hcut : (c.latch.dstLen - (c.dstPos + BitVec.ofNat 32 (min a.toNat (c.latch.dstLen - c.dstPos).toNat))).toNat =
        (c.latch.dstLen - c.dstPos).toNat - min a.toNat (c.latch.dstLen - c.dstPos).toNat := by
      generalize hm : min a.toNat (c.latch.dstLen - c.dstPos).toNat = m
      have hle : m ≤ (c.latch.dstLen - c.dstPos).toNat := hm ▸ Nat.min_le_right _ _
      clear hm hpos
      have hm : (BitVec.ofNat 32 m).toNat = m := Nat.mod_eq_of_lt (by omega)
      bv_omega
    rw [hcut]
    omega
  · simp only [hres, Bool.false_eq_true, if_false]

theorem Engine.budget_mono (c : Engine) {a b : BitVec 26} (h : a.toNat ≤ b.toNat) : c.budget a ≤ c.budget b := by
  unfold Engine.budget
  split
  · exact min_le_min_right _ h
  · exact h

/-- Settles O46: the second loop goes on where the first one stopped, and the bytes of the first count on top. -/
theorem stepSplitsAtAnyBudget : Obligations.StepSplitsAtAnyBudget := by
  intro a b s t u hsum hs hok hu hbusy
  rcases exec_step_cases hs hok.1 with ⟨-, rfl⟩ | ⟨hfailed, rfl⟩ | ⟨hlive, -⟩
  · cases hok.2
  · have hagain := exec_step_of_failed (s := s.complete (s.toEngine.cleared.takeError s.streamErr)) b hfailed
    have hsame : u = s.complete ((s.toEngine.cleared.takeError s.streamErr).withResult 0) :=
      (Host.Outcome.next.inj (hagain.symm.trans hu)).symm
    have hzero : u.result = 0 := by rw [hsame]; rfl
    rw [State.setResult_complete hsame, hzero]
    exact exec_step_of_failed (a + b) hfailed
  · obtain ⟨c, hend, rfl⟩ := (exec_step_iff hlive hok.1).mp hs
    have herr : c.err = .none := hok.2
    obtain ⟨n, hn⟩ := stepLoop_endsWell (c := s.toEngine.cleared) hlive hend herr
    obtain ⟨d, hd, rfl⟩ := (exec_step_iff (s := s.complete c) hn.live hbusy).mp hu
    change stepEnd (c.budget b) 0 c.cleared = some d at hd
    rw [Engine.cleared_of_err herr] at hd
    have hmono : s.toEngine.budget a ≤ s.toEngine.budget (a + b) :=
      s.toEngine.budget_mono (by rw [BitVec.toNat_add, Nat.mod_eq_of_lt hsum]; exact Nat.le_add_right _ _)
    obtain ⟨more, hmore⟩ := Nat.exists_eq_add_of_le hmono
    have hresume := hn.resume more
    rw [← hmore, Nat.zero_add] at hresume
    have hboth : stepEnd (s.toEngine.budget (a + b)) 0 s.toEngine.cleared = stepEnd (c.budget b) n c := by
      rw [hresume]
      rcases hn.stop with hdone | hused
      · rw [stepEnd_done hdone, stepEnd_done hdone]
      · have hstored := hn.stored
        rw [hused] at hstored
        have hadd : s.toEngine.cleared.budget (a + b) = s.toEngine.cleared.budget a + c.budget b := Engine.budget_add hsum hstored
        rw [Engine.cleared_budget, Engine.cleared_budget] at hadd
        rw [hadd, hused, Nat.add_sub_cancel_left]
    have hsplit := stepEnd_add n (c.budget b) 0 c
    rw [Nat.zero_add, hd] at hsplit
    refine (exec_step_iff hlive (by exact hbusy)).mpr ⟨d.addResult n, hboth.trans hsplit, ?_⟩
    have hresult : c.result = BitVec.ofNat 32 n := by rw [hn.result, Nat.zero_add]
    rw [Engine.addResult, ← hresult, BitVec.add_comm]
    rfl

/-! ### Pieces run by commands of their own -/

/-- A piece that returns `a`, whatever `RESULT` holds, run as a command from `s` to `t`; what it wrote to `RESULT` is left open. -/
def Ran {α : Type} (x : Cmd α) (s : State) (a : α) (t : State) : Prop :=
  ∃ c : Engine, (∀ r, x.run (s.toEngine.cleared.withResult r) = .ok a (c.withResult r)) ∧ c.err = .none ∧
    ∃ r, t = s.complete (c.withResult r)

/-- A piece that raises `e`, whatever `RESULT` holds, run as a command from `s` to `t`. -/
def Raised {α : Type} (x : Cmd α) (s : State) (e : Err) (t : State) : Prop :=
  ∃ c : Engine, (∀ r, x.run (s.toEngine.cleared.withResult r) = .error (.raise e) (c.withResult r)) ∧
    t = s.complete (c.takeError e)

/-- No command runs and the last one reported no error. -/
def State.Settled (s : State) : Prop := s.busy = false ∧ s.running = none ∧ s.err = .none

/-- The machine with the engine's registers changed. -/
def State.noted (s : State) (n : Notes) : State := { s with toEngine := s.toEngine.noted n }

section
variable {α β : Type} {x : Cmd α} {f : α → Cmd β} {s t u : State} {a : α} {b : β} {e : Err} {c d : Engine}

theorem Ran.bind (hx : Ran x s a t) (hf : Ran (f a) t b u) : Ran (x >>= f) s b u := by
  obtain ⟨c, hrun, herr, r, rfl⟩ := hx
  obtain ⟨d, hrun', herr', r', rfl⟩ := hf
  have hstart : (s.complete (c.withResult r)).toEngine.cleared = c.withResult r := Engine.cleared_of_err herr
  rw [hstart] at hrun'
  exact ⟨d, fun q => by rw [EStateM.run_bind, hrun]; exact hrun' q, herr', r', rfl⟩

theorem Ran.raised (hx : Ran x s a t) (hf : Raised (f a) t e u) : Raised (x >>= f) s e u := by
  obtain ⟨c, hrun, herr, r, rfl⟩ := hx
  obtain ⟨d, hrun', rfl⟩ := hf
  have hstart : (s.complete (c.withResult r)).toEngine.cleared = c.withResult r := Engine.cleared_of_err herr
  rw [hstart] at hrun'
  exact ⟨d, fun q => by rw [EStateM.run_bind, hrun]; exact hrun' q, rfl⟩

theorem Raised.bind (hx : Raised x s e t) : Raised (x >>= f) s e t := by
  obtain ⟨c, hrun, rfl⟩ := hx
  exact ⟨c, fun q => by rw [EStateM.run_bind, hrun], rfl⟩

theorem ran_of_run (hblind : ∀ r, x.Commutes (·.withResult r)) {r : Word} (hrun : x.run s.toEngine.cleared = .ok a c)
    (herr : c.err = .none) (ht : t = s.complete (c.withResult r)) : Ran x s a t :=
  ⟨c, fun q => (hblind q).run_of_ok hrun, herr, r, ht⟩

theorem raised_of_run (hblind : ∀ r, x.Commutes (·.withResult r)) (hrun : x.run s.toEngine.cleared = .error (.raise e) c)
    (ht : t = s.complete (c.takeError e)) : Raised x s e t :=
  ⟨c, fun q => (hblind q).run_of_error hrun, ht⟩

/-- Changing registers that a piece does not see, before it and after it. -/
theorem Ran.noted {n : Notes} (hx : Ran x s a t) (hblind : ∀ n, x.Commutes (·.noted n)) : Ran x (s.noted n) a (t.noted n) := by
  obtain ⟨c, hrun, herr, r, rfl⟩ := hx
  exact ⟨c.noted n, fun q => (hblind { n with result := fun _ => q }).run_of_ok (hrun s.result), herr, n.result r, rfl⟩

theorem Raised.noted {n : Notes} (hx : Raised x s e t) (hblind : ∀ n, x.Commutes (·.noted n)) (hresult : n.result = id) :
    Raised x (s.noted n) e (t.noted n) := by
  obtain ⟨c, hrun, rfl⟩ := hx
  refine ⟨c.noted n, fun q => (hblind { n with result := fun _ => q }).run_of_error (hrun s.result), ?_⟩
  have hzero : ((c.takeError e).noted n) = (c.noted n).takeError e := by
    simp only [Engine.noted, Engine.takeError, hresult, id]
  exact congrArg s.complete hzero

theorem Ran.settled (hx : Ran x s a t) : t.Settled := by
  obtain ⟨c, -, herr, r, rfl⟩ := hx
  exact ⟨rfl, rfl, herr⟩

theorem State.Settled.cleared (h : s.Settled) : s.toEngine.cleared = s.toEngine := Engine.cleared_of_err h.2.2

theorem State.Settled.complete (h : s.Settled) (c : Engine) : s.complete c = { s with toEngine := c } := by
  obtain ⟨hbusy, hrunning, -⟩ := h
  rw [State.complete, hbusy, hrunning]

theorem State.Settled.ran (h : s.Settled) (hrun : ∀ r, x.run (s.toEngine.withResult r) = .ok a (c.withResult r))
    (herr : c.err = .none) : Ran x s a { s with toEngine := c } :=
  ⟨c, by rw [h.cleared]; exact hrun, herr, c.result, (h.complete c).symm⟩

theorem State.Settled.ran_pure (h : s.Settled) (a : α) : Ran (pure a) s a s := h.ran (fun _ => rfl) h.2.2

/-- What the sequencer notes in its registers does not depend on `RESULT`. -/
theorem State.Settled.ran_note (h : s.Settled) {n : Engine → Notes} (hsame : ∀ c r, n (c.withResult r) = n c)
    (hresult : ∀ c, (n c).result = id) : Ran (modify fun c => c.noted (n c)) s ⟨⟩ (s.noted (n s.toEngine)) := by
  refine h.ran (fun r => ?_) h.2.2
  show EStateM.Result.ok _ ((s.toEngine.withResult r).noted (n (s.toEngine.withResult r))) = _
  rw [hsame]
  simp only [Engine.noted, Engine.withResult, hresult, id]

theorem State.Settled.raised (h : s.Settled) : Raised (raise e : Cmd α) s e (s.complete (s.toEngine.takeError e)) :=
  ⟨s.toEngine, fun r => by rw [h.cleared]; rfl, rfl⟩

theorem State.Settled.ran_require (h : s.Settled) {ok : Bool} (hok : ok = true) : Ran (require ok e) s () s := by
  rw [hok]
  exact h.ran_pure ()

theorem State.Settled.raised_require (h : s.Settled) {ok : Bool} (hno : ok = false) :
    Raised (require ok e) s e (s.complete (s.toEngine.takeError e)) := by
  rw [hno]
  exact h.raised

theorem State.Settled.ran_get_bind {g : Engine → Cmd α} (h : s.Settled) (hsame : ∀ c r, g (c.withResult r) = g c)
    (hx : Ran (g s.toEngine) s a t) : Ran (get >>= g) s a t := by
  obtain ⟨c, hrun, herr, ht⟩ := hx
  refine ⟨c, fun r => ?_, herr, ht⟩
  rw [← hrun r, h.cleared, ← hsame _ r]
  rfl

theorem State.Settled.raised_get_bind {g : Engine → Cmd α} (h : s.Settled) (hsame : ∀ c r, g (c.withResult r) = g c)
    (hx : Raised (g s.toEngine) s e t) : Raised (get >>= g) s e t := by
  obtain ⟨c, hrun, ht⟩ := hx
  refine ⟨c, fun r => ?_, ht⟩
  rw [← hrun r, h.cleared, ← hsame _ r]
  rfl
end

/-! ### Passes of the loop -/

/-- A stream that failed with `e` after no byte, from the state in which the command that raised `e` stopped. -/
def State.stepFailed (v : State) (e : Err) : State :=
  { v with toEngine := { v.toEngine with pstate := e.terminal, streamErr := e, err := e, result := 0 } }

section
variable {s v w : State} {cap : BitVec 26} (hp : s.pstate.active = true)
include hp

theorem Ran.stepEnd_eq {n left produced : Nat} (hleft : left ≠ 0) (h : Ran stepOnce s n v) :
    stepEnd left produced s.toEngine.cleared = stepEnd (left - n) (produced + n) v.toEngine := by
  obtain ⟨c, hrun, -, r, rfl⟩ := h
  rw [stepEnd_of_pass (c := s.toEngine.cleared) hp hleft (hrun s.result)]
  exact (stepEnd_withResult _ _ _ c).trans (stepEnd_withResult r _ _ c).symm

theorem Ran.pass {n : Nat} (h : Ran stepOnce s n v) :
    v.pstate.Live ∧ ∃ k, k = n ∧ s.toEngine.Stored k v.toEngine := by
  obtain ⟨c, hrun, -, r, rfl⟩ := h
  obtain ⟨bs, hlen, -, hwrote⟩ := emits_stepOnce.ok (hrun s.result)
  refine ⟨((stepOnce_live (c := s.toEngine.cleared) (.inl hp)).ok _ _ (hrun s.result)).2, _, hlen, ?_⟩
  have hall := s.toEngine.stored_cleared.trans hwrote.stored
  rw [Nat.zero_add] at hall
  exact hall.reported r c.err

/-- A pass that emits nothing: `STEP` goes on from the state behind it. -/
theorem Ran.step_iff (h : Ran stepOnce s 0 v) (hbudget : s.toEngine.budget cap ≠ 0) (hbusy : w.busy = false) :
    exec (.step cap) s = .next w ↔ exec (.step cap) v = .next w := by
  obtain ⟨hlive, -, rfl, hstored⟩ := h.pass hp
  have hpos := hstored.dstPos
  rw [noAdvance] at hpos
  have hsame : v.toEngine.budget cap = s.toEngine.budget cap := by
    rw [Engine.budget, Engine.budget, Engine.room, Engine.room, hstored.latch, hpos]
  have hcomplete (d : Engine) : v.complete d = s.complete d := by
    obtain ⟨c, -, -, r, rfl⟩ := h
    rfl
  rw [exec_step_iff (.inl hp) hbusy, exec_step_iff hlive hbusy, hsame, h.stepEnd_eq hp hbudget, h.settled.cleared]
  simp only [hcomplete, Nat.sub_zero, Nat.add_zero]

/-- A pass behind which the budget is used or the stream done: `STEP` ends. -/
theorem Ran.step_end {n : Nat} (h : Ran stepOnce s n v) (hbudget : s.toEngine.budget cap ≠ 0)
    (hend : v.pstate = .done ∨ s.toEngine.budget cap = n) :
    exec (.step cap) s = .next { v with toEngine := { v.toEngine with result := BitVec.ofNat 32 n } } := by
  have heq := h.stepEnd_eq hp hbudget (produced := 0)
  have hvalue : stepEnd (s.toEngine.budget cap - n) (0 + n) v.toEngine = some (v.toEngine.withResult (BitVec.ofNat 32 n)) := by
    rw [Nat.zero_add]
    rcases hend with hdone | hused
    · exact stepEnd_done hdone
    · rw [hused, Nat.sub_self]
      exact stepEnd_zero n _
  obtain ⟨hbusy, -⟩ := h.settled
  refine (exec_step_iff (.inl hp) (by exact hbusy)).mpr ⟨_, heq.trans hvalue, ?_⟩
  obtain ⟨c, -, -, r, rfl⟩ := h
  rfl

theorem Raised.step {e : Err} (h : Raised stepOnce s e v) (hbudget : s.toEngine.budget cap ≠ 0) :
    exec (.step cap) s = .next (v.stepFailed e) := by
  obtain ⟨c, hrun, rfl⟩ := h
  refine (exec_step_iff (.inl hp) (by rfl)).mpr ⟨_, stepEnd_of_raise (c := s.toEngine.cleared) hp hbudget (hrun s.result), rfl⟩
end

/-! ### The commands that read bits, as pieces -/

theorem Cmd.Closed.blind {α : Type} {x : Cmd α} (hx : ∀ n, x.Commutes (·.noted n)) (r : Word) : x.Commutes (·.withResult r) :=
  hx { result := fun _ => r }

/-- What a piece that reads bits leaves as it is. -/
structure State.SameStream (s t : State) : Prop where
  pstate : t.pstate = s.pstate
  bfinal : t.bfinal = s.bfinal
  latch : t.latch = s.latch
  dstPos : t.dstPos = s.dstPos

section
variable {s t : State}

theorem Ran.sameStream {α : Type} {x : Cmd α} {a : α} (h : Ran x s a t) (hframe : ∀ c, BitFrame c (x.after c)) : s.SameStream t := by
  obtain ⟨c, hrun, -, r, rfl⟩ := h
  have hc := hframe (s.toEngine.cleared.withResult s.result)
  rw [Cmd.after_of_ok (hrun s.result), BitFrame] at hc
  exact ⟨(congrArg Engine.pstate hc :), (congrArg Engine.bfinal hc :), (congrArg Engine.latch hc :), (congrArg Engine.dstPos hc :)⟩

section
variable {α : Type} {x : Cmd α} {g : α → Word} {i : Instr} (hwf : i.wf = true) (hs : s.pstate ≠ .idle) (hx : x.Quiet)
  (hframe : ∀ c, BitFrame c (x.after c)) (hblind : ∀ n, x.Commutes (·.noted n))
  (h : runCmd i (readAndReport x g) s = .next t)
include hwf hs hx hframe hblind h

theorem ran_of_readAndReport (hok : t.ok) : ∃ a, Ran x s a t ∧ t.result = g a := by
  obtain ⟨a, c, hrun, ht⟩ := (runCmd_readAndReport hwf hs hx hframe h).1 hok
  refine ⟨a, ran_of_run (Cmd.Closed.blind hblind) hrun ?_ ht, by rw [ht]; rfl⟩
  have herr := hok.2
  rw [ht] at herr
  exact herr

theorem raised_of_readAndReport (herr : t.err ≠ .none) : Raised x s t.err t := by
  obtain ⟨c, hrun, ht⟩ := (runCmd_readAndReport hwf hs hx hframe h).2 herr
  exact raised_of_run (Cmd.Closed.blind hblind) hrun ht
end

section
variable {n : BitVec 6} (hs : s.pstate ≠ .idle) (hn : n.toNat ≤ 32) (h : exec (.getbits n) s = .next t)
include hs hn h

theorem ran_getBits (hok : t.ok) : Ran (getBits n.toNat) s t.result t := by
  obtain ⟨a, hran, ha⟩ := ran_of_readAndReport (i := .getbits n) (decide_eq_true hn) hs (quiet_getBits _) (getBits_frame _)
    (fun m => (closed_commutes m).getBits _) ((execGetbits_eq n s).symm.trans h) hok
  rw [ha]
  exact hran

theorem raised_getBits (herr : t.err ≠ .none) : Raised (getBits n.toNat) s t.err t :=
  raised_of_readAndReport (i := .getbits n) (decide_eq_true hn) hs (quiet_getBits _) (getBits_frame _)
    (fun m => (closed_commutes m).getBits _) ((execGetbits_eq n s).symm.trans h) herr
end

section
variable {slot : BitVec 2} (hs : s.pstate ≠ .idle) (hwf : (Instr.decode slot).wf = true) (h : exec (.decode slot) s = .next t)
include hs hwf h

theorem ran_decodeSymbol (hok : t.ok) : ∃ sym, Ran (decodeSymbol (Slot.ofCode slot)) s sym t ∧ t.result = sym.setWidth 32 :=
  ran_of_readAndReport hwf hs (quiet_decodeSymbol _) (decodeSymbol_frame _)
    (fun m => (closed_commutes m).decodeSymbol _) ((execDecode_eq slot s).symm.trans h) hok

theorem raised_decodeSymbol (herr : t.err ≠ .none) : Raised (decodeSymbol (Slot.ofCode slot)) s t.err t :=
  raised_of_readAndReport hwf hs (quiet_decodeSymbol _) (decodeSymbol_frame _)
    (fun m => (closed_commutes m).decodeSymbol _) ((execDecode_eq slot s).symm.trans h) herr
end

/-- A `PUT` that reports no error is `Emit`. -/
theorem ran_emit {b : Byte} (h : exec (.put b) s = .next t) (hok : t.ok) :
    Ran (emit b) s () t ∧ ¬ (s.latch.ctrl.dstRes = true ∧ s.dstPos = s.latch.dstLen) := by
  obtain ⟨-, hroom, hrun, rfl⟩ := exec_put_ok h hok
  exact ⟨ran_of_run (Cmd.Closed.blind fun n => commutes_emit n b) hrun rfl rfl, hroom⟩
end

/-! ### Errors of the pieces -/

/-- A piece that does not raise `CHECKSUM`, which only the trailer does. -/
def Cmd.NoMismatch {α : Type} (x : Cmd α) : Prop := ∀ c, x.wp (fun _ _ => True) (fun e _ => e ≠ .checksum) c

theorem noMismatch_fetchSourceByte : fetchSourceByte.NoMismatch := by
  have hcount (b : Byte) :
      (modify (fun c : Engine => { c with srcPos := c.srcPos + 1 }) >>= fun _ => pure b : Cmd Byte).NoMismatch := fun _ =>
    Cmd.wp_bind (Cmd.wp_modify (Cmd.wp_pure trivial))
  have hexhausted {e : Err} (h : e = .srcExhausted) : e ≠ .checksum := by
    rintro rfl
    cases h
  refine fun c => Cmd.wp_get_bind (Cmd.wp_ite (fun _ => Cmd.wp_bind ?_) fun _ => Cmd.wp_bind ?_)
  · exact (pullByte_wp c).mono (fun b c' _ => hcount b c') fun _ _ h => hexhausted h.1
  · exact (residentByte_wp c).mono (fun b c' _ => hcount b c') fun _ _ h => hexhausted h.1

theorem noMismatch_getBit : getBit.NoMismatch := fun c => by
  refine Cmd.wp_bind (Cmd.wp_get_bind (Cmd.wp_ite (fun _ => Cmd.wp_bind ?_) fun _ =>
    Cmd.wp_pure ⟨fun _ _ _ => trivial, fun _ _ h => by cases h⟩))
  exact (noMismatch_fetchSourceByte c).mono (fun b c' _ => Cmd.wp_modify ⟨fun _ _ _ => trivial, fun _ _ h => by cases h⟩) fun _ _ => id

theorem noMismatch_buildTree (s : Slot) (ls : List (BitVec 4)) : (buildTree s ls).NoMismatch := fun c => by
  refine ⟨fun _ _ _ => trivial, fun e c' h => ?_⟩
  rw [buildTree_run] at h
  split at h
  · cases h
    decide
  · cases h

theorem noMismatch_readDest (pos : Word) : (readDest pos).NoMismatch := fun c => by
  refine ⟨fun _ _ _ => trivial, fun e c' h => ?_⟩
  rw [readDest_run] at h
  split at h <;> cases h

theorem closed_noMismatch : Cmd.Closed fun _ x => x.NoMismatch where
  pure a _ := Cmd.wp_pure trivial
  bind hx hf _ := Cmd.wp_bind ((hx _).mono (fun a c' _ => hf a c') fun _ _ => id)
  stop {_ st} h _ := ⟨fun _ _ hr => (by cases hr), fun e _ hr => by
    cases hr
    rintro rfl
    cases h⟩
  get_bind _ hf c := Cmd.wp_get_bind (hf c c)
  getBit := noMismatch_getBit
  alignBits _ := Cmd.wp_modify trivial
  lenWrite _ _ _ := Cmd.wp_modify trivial
  buildTree := noMismatch_buildTree
  readDest := noMismatch_readDest

theorem Raised.ne_checksum {α : Type} {x : Cmd α} {s t : State} {e : Err} (h : Raised x s e t) (hx : x.NoMismatch) : e ≠ .checksum := by
  obtain ⟨c, hrun, -⟩ := h
  exact (hx _).raise e _ (hrun s.result)

theorem Err.terminal_of_ne_checksum {e : Err} (h : e ≠ .checksum) :
    e.terminal = if e = .srcExhausted then .sourceExhausted else .dataError := by
  cases e with
  | checksum => exact absurd rfl h
  | _ => rfl

/-! ### Literals, the end of a block and matches: 44_inflate.md R231, R233 -/

/-- What `HuffStep()` does with the symbol it has decoded. -/
def huffTail (sym : BitVec 9) : Cmd Nat :=
  if sym.toNat < 256 then emit (sym.setWidth 8) >>= fun _ => pure 1
  else if sym.toNat = 256 then endOfBlock >>= fun _ => pure 0
  else if sym.toNat ≤ 285 then matchStep (sym.toNat - 257) >>= fun _ => pure 0
  else raise .badSymbol

theorem huffStep_eq : huffStep = decodeSymbol .lt >>= huffTail := rfl

theorem huffTail_of_literal {sym : BitVec 9} (h : sym.toNat < 256) : huffTail sym = emit (sym.setWidth 8) >>= fun _ => pure 1 := if_pos h

theorem huffTail_of_end {sym : BitVec 9} (h : sym.toNat = 256) : huffTail sym = endOfBlock >>= fun _ => pure 0 := by
  rw [huffTail, if_neg (by omega), if_pos h]

theorem huffTail_of_length {sym : BitVec 9} {i : Nat} (h : sym.toNat = 257 + i) (hi : i ≤ 28) :
    huffTail sym = matchStep i >>= fun _ => pure 0 := by
  rw [huffTail, if_neg (by omega), if_neg (by omega), if_pos (by omega), h, Nat.add_sub_cancel_left]

theorem huffTail_of_reserved {sym : BitVec 9} (h : 286 ≤ sym.toNat) : huffTail sym = raise .badSymbol := by
  rw [huffTail, if_neg (by omega), if_neg (by omega), if_neg (by omega)]

section
variable {s t v : State}

/-- In `HUFF` a pass is `HuffStep()`. -/
theorem ran_stepOnce_of_huff (hp : s.pstate = .huff) {n : Nat} (h : Ran huffStep s n v) : Ran stepOnce s n v := by
  obtain ⟨c, hrun, hrest⟩ := h
  refine ⟨c, fun r => ?_, hrest⟩
  have hp' : (s.toEngine.cleared.withResult r).pstate = .huff := hp
  rw [stepOnce_run, hp']
  exact hrun r

theorem raised_stepOnce_of_huff (hp : s.pstate = .huff) {e : Err} (h : Raised huffStep s e v) : Raised stepOnce s e v := by
  obtain ⟨c, hrun, hv⟩ := h
  refine ⟨c, fun r => ?_, hv⟩
  have hp' : (s.toEngine.cleared.withResult r).pstate = .huff := hp
  rw [stepOnce_run, hp']
  exact hrun r

/-- Where the sequencer goes at the end of a block (44_inflate.md R233). -/
def Engine.afterBlock (c : Engine) : PState := if c.bfinal then (if c.latch.ctrl.trailer = .none then .done else .trailer) else .hdr

theorem State.Settled.ran_endOfBlock (h : t.Settled) :
    Ran (endOfBlock >>= fun _ => pure 0 : Cmd Nat) t 0 (t.noted { pstate := fun _ => t.toEngine.afterBlock }) := by
  have hnote := h.ran_note (n := fun c => { pstate := fun _ => c.afterBlock }) (fun _ _ => rfl) fun _ => rfl
  exact Ran.bind hnote (hnote.settled.ran_pure 0)

section
variable {sym : BitVec 9} (hp : s.pstate = .huff) (hdec : Ran (decodeSymbol .lt) s sym t)
include hp hdec

theorem ran_stepOnce_of_literal {u : State} (h : sym.toNat < 256) (hemit : Ran (emit (sym.setWidth 8)) t () u) : Ran stepOnce s 1 u := by
  refine ran_stepOnce_of_huff hp (Ran.bind (f := huffTail) hdec ?_)
  rw [huffTail_of_literal h]
  exact hemit.bind (hemit.settled.ran_pure 1)

theorem ran_stepOnce_of_endSymbol (h : sym.toNat = 256) : Ran stepOnce s 0 (t.noted { pstate := fun _ => t.toEngine.afterBlock }) := by
  refine ran_stepOnce_of_huff hp (Ran.bind (f := huffTail) hdec ?_)
  rw [huffTail_of_end h]
  exact hdec.settled.ran_endOfBlock

theorem ran_stepOnce_of_length {i : Nat} (h : sym.toNat = 257 + i) (hi : i ≤ 28) (hmatch : Ran (matchStep i) t () v) : Ran stepOnce s 0 v := by
  refine ran_stepOnce_of_huff hp (Ran.bind (f := huffTail) hdec ?_)
  rw [huffTail_of_length h hi]
  exact hmatch.bind (hmatch.settled.ran_pure 0)

theorem raised_stepOnce_of_length {i : Nat} {e : Err} (h : sym.toNat = 257 + i) (hi : i ≤ 28) (hmatch : Raised (matchStep i) t e v) :
    Raised stepOnce s e v := by
  refine raised_stepOnce_of_huff hp (Ran.raised (f := huffTail) hdec ?_)
  rw [huffTail_of_length h hi]
  exact hmatch.bind

theorem raised_stepOnce_of_reserved (h : 286 ≤ sym.toNat) :
    Raised stepOnce s .badSymbol (t.complete (t.toEngine.takeError .badSymbol)) := by
  refine raised_stepOnce_of_huff hp (Ran.raised (f := huffTail) hdec ?_)
  rw [huffTail_of_reserved h]
  exact hdec.settled.raised
end

end

/-- Where the budget is left, one byte is a budget of one. -/
theorem Engine.budget_one {c : Engine} (h : ¬ (c.latch.ctrl.dstRes = true ∧ c.dstPos = c.latch.dstLen)) : c.budget 1 = 1 := by
  unfold Engine.budget Engine.room
  split
  · next hres =>
    have hne : c.dstPos ≠ c.latch.dstLen := fun heq => h ⟨hres, heq⟩
    have hone : (1 : BitVec 26).toNat = 1 := rfl
    rw [hone]
    bv_omega
  · rfl

/-- Settles O41: a pass in `HUFF` decodes one symbol and acts on it as `huffTail` says. -/
theorem stepActsOnTheDecodedSymbol : Obligations.StepActsOnTheDecodedSymbol := by
  intro s t cap hp hdec hbusy
  have hactive : s.pstate.active = true := by rw [hp]; rfl
  have hidle : s.pstate ≠ .idle := PState.ne_of_active hactive rfl
  have hsym (hok : t.ok) : ∃ sym, Ran (decodeSymbol .lt) s sym t ∧ sym.toNat = t.result.toNat := by
    obtain ⟨sym, hran, hresult⟩ := ran_decodeSymbol hidle rfl hdec hok
    exact ⟨sym, hran, by rw [hresult, BitVec.toNat_setWidth_of_le (by decide)]⟩
  refine ⟨fun hbudget herr => ?_, fun hok u hlit hput hok' => ?_, fun hok hbudget hend => ?_, fun hok hbudget hres => ?_⟩
  · have hraised := raised_decodeSymbol hidle rfl hdec herr
    have hne := hraised.ne_checksum (closed_noMismatch.decodeSymbol _)
    have hstep := (raised_stepOnce_of_huff hp hraised.bind).step hactive hbudget
    rw [State.stepFailed, Err.terminal_of_ne_checksum hne] at hstep
    exact hstep
  · obtain ⟨sym, hran, hnat⟩ := hsym hok
    have hbyte : t.result.setWidth 8 = sym.setWidth 8 := by bv_omega
    rw [hbyte] at hput
    obtain ⟨hemit, hroom⟩ := ran_emit hput hok'
    have hsame := hran.sameStream (decodeSymbol_frame _)
    rw [hsame.latch, hsame.dstPos] at hroom
    have hone := Engine.budget_one hroom
    exact (ran_stepOnce_of_literal hp hran (by omega) hemit).step_end hactive (by omega) (.inr hone)
  · obtain ⟨sym, hran, hnat⟩ := hsym hok
    have hsame := hran.sameStream (decodeSymbol_frame _)
    have hpass := ran_stepOnce_of_endSymbol hp hran (hnat.trans hend)
    rw [Engine.afterBlock, hsame.bfinal, hsame.latch] at hpass
    refine ⟨fun hb w hw => ?_, fun hb htr => ?_, fun hb htr w hw => ?_⟩
    · rw [hb, if_neg Bool.false_ne_true] at hpass
      exact hpass.step_iff hactive hbudget hw
    · rw [hb, if_pos rfl, if_pos htr] at hpass
      exact hpass.step_end hactive hbudget (.inl rfl)
    · rw [hb, if_pos rfl, if_neg htr] at hpass
      exact hpass.step_iff hactive hbudget hw
  · obtain ⟨sym, hran, hnat⟩ := hsym hok
    have hstep := (raised_stepOnce_of_reserved hp hran (hnat ▸ hres)).step hactive hbudget
    obtain ⟨hb, hr, -⟩ := hran.settled
    rw [hran.settled.complete] at hstep
    exact hstep

/-! ### Matches: 44_inflate.md R229, R231 -/

/-- What a match leaves in the sequencer's registers. -/
def matchNotes (i : Nat) (le : Word) (dist : Nat) : Notes where
  pstate _ := .copy
  lzRem _ := BitVec.ofNat 9 (lenBase.getD i 0 + le.toNat)
  lzDist _ := BitVec.ofNat 16 dist

section
variable {t₁ t₂ t₃ t₄ v : State} {i : Nat} {le de : Word} {ds : BitVec 9} {e : Err}
  (h₂ : Ran (getBits (lenExtra.getD i 0)) t₁ le t₂)
include h₂

theorem raised_matchStep_of_distSymbol (h : Raised (decodeSymbol .dt) t₂ e v) : Raised (matchStep i) t₁ e v := h₂.raised h.bind

variable (h₃ : Ran (decodeSymbol .dt) t₂ ds t₃)
include h₃

theorem raised_matchStep_of_reserved (hds : 30 ≤ ds.toNat) :
    Raised (matchStep i) t₁ .badSymbol (t₃.complete (t₃.toEngine.takeError .badSymbol)) :=
  h₂.raised (h₃.raised (h₃.settled.raised_require (decide_eq_false (by omega))).bind)

variable (hds : ds.toNat < 30)
include hds

theorem raised_matchStep_of_distExtra (h : Raised (getBits (distExtra.getD ds.toNat 0)) t₃ e v) : Raised (matchStep i) t₁ e v :=
  h₂.raised (h₃.raised ((h₃.settled.ran_require (decide_eq_true hds)).raised h.bind))

variable (h₄ : Ran (getBits (distExtra.getD ds.toNat 0)) t₃ de t₄)
include h₄

theorem raised_matchStep_of_distance (hcov : t₄.toEngine.covered (distBase.getD ds.toNat 0 + de.toNat) = false) :
    Raised (matchStep i) t₁ .invalidDistance (t₄.complete (t₄.toEngine.takeError .invalidDistance)) :=
  h₂.raised (h₃.raised ((h₃.settled.ran_require (decide_eq_true hds)).raised (h₄.raised
    (h₄.settled.raised_get_bind (fun _ _ => rfl) (h₄.settled.raised_require hcov).bind))))

theorem ran_matchStep (hcov : t₄.toEngine.covered (distBase.getD ds.toNat 0 + de.toNat) = true) :
    Ran (matchStep i) t₁ () (t₄.noted (matchNotes i le (distBase.getD ds.toNat 0 + de.toNat))) :=
  h₂.bind (h₃.bind ((h₃.settled.ran_require (decide_eq_true hds)).bind (h₄.bind
    (h₄.settled.ran_get_bind (fun _ _ => rfl) ((h₄.settled.ran_require hcov).bind
      (h₄.settled.ran_note (n := fun _ => matchNotes i le (distBase.getD ds.toNat 0 + de.toNat)) (fun _ _ => rfl) fun _ => rfl))))))
end

theorem toNat_extraBits {l : List Nat} (hl : ∀ x ∈ l, x ≤ 13) (k : Nat) :
    (BitVec.ofNat 6 (l.getD k 0)).toNat = l.getD k 0 ∧ (BitVec.ofNat 6 (l.getD k 0)).toNat ≤ 32 := by
  have hle : l.getD k 0 ≤ 13 := by
    rw [List.getD_eq_getElem?_getD]
    cases hk : l[k]? with
    | none => exact Nat.zero_le _
    | some x => exact hl x (List.mem_of_getElem? hk)
  have hnat : (BitVec.ofNat 6 (l.getD k 0)).toNat = l.getD k 0 := Nat.mod_eq_of_lt (by omega)
  exact ⟨hnat, by omega⟩

/-- Settles O42: a pass in `HUFF` that decodes a length symbol runs `MatchStep` over the reads of the host-level commands. -/
theorem stepResolvesALengthSymbol : Obligations.StepResolvesALengthSymbol := by
  intro s t₁ t₂ cap i hp hbudget hdec hok₁ hsym hi hextra hbusy₂
  change exec (.getbits (BitVec.ofNat 6 (lenExtra.getD i 0))) t₁ = .next t₂ at hextra
  have hactive : s.pstate.active = true := by rw [hp]; rfl
  obtain ⟨sym, hran, hresult⟩ := ran_decodeSymbol (PState.ne_of_active hactive rfl) rfl hdec hok₁
  have hnat : sym.toNat = 257 + i := by
    rw [← hsym, hresult, BitVec.toNat_setWidth_of_le (by decide)]
  have hp₁ : t₁.pstate ≠ .idle := by
    rw [(hran.sameStream (decodeSymbol_frame _)).pstate, hp]
    decide
  have hraise {e : Err} {v : State} (h : Raised (matchStep i) t₁ e v) : exec (.step cap) s = .next (v.stepFailed e) :=
    (raised_stepOnce_of_length hp hran hnat hi h).step hactive hbudget
  have hfailed {v : State} (h : Raised (matchStep i) t₁ v.err v) (hne : v.err ≠ .checksum) :
      exec (.step cap) s = .next { v with toEngine := { v.toEngine with
        pstate := (if v.err = .srcExhausted then .sourceExhausted else .dataError), streamErr := v.err, result := 0 } } := by
    have hstep := hraise h
    rw [State.stepFailed, Err.terminal_of_ne_checksum hne] at hstep
    exact hstep
  obtain ⟨hlen, hlen32⟩ := toNat_extraBits (l := lenExtra) (by decide) i
  refine ⟨fun herr => ?_, fun hok₂ t₃ hdec₃ hbusy₃ => ?_⟩
  · have hraised := raised_getBits hp₁ hlen32 hextra herr
    rw [hlen] at hraised
    exact hfailed hraised.bind (hraised.ne_checksum (closed_noMismatch.getBits _))
  have h₂ := ran_getBits hp₁ hlen32 hextra hok₂
  rw [hlen] at h₂
  have hp₂ : t₂.pstate ≠ .idle := by
    rw [(h₂.sameStream (getBits_frame _)).pstate]
    exact hp₁
  have hds (hok₃ : t₃.ok) : ∃ ds, Ran (decodeSymbol .dt) t₂ ds t₃ ∧ t₃.result.toNat = ds.toNat := by
    obtain ⟨ds, h₃, hresult₃⟩ := ran_decodeSymbol hp₂ rfl hdec₃ hok₃
    exact ⟨ds, h₃, by rw [hresult₃, BitVec.toNat_setWidth_of_le (by decide)]⟩
  refine ⟨fun herr => ?_, fun hok₃ hreserved => ?_, fun t₄ hok₃ hlt hextra₄ hbusy₄ => ?_⟩
  · have hraised := raised_decodeSymbol hp₂ rfl hdec₃ herr
    exact hfailed (raised_matchStep_of_distSymbol h₂ hraised) (hraised.ne_checksum (closed_noMismatch.decodeSymbol _))
  · obtain ⟨ds, h₃, hnat₃⟩ := hds hok₃
    have hstep := hraise (raised_matchStep_of_reserved h₂ h₃ (hnat₃ ▸ hreserved))
    rw [h₃.settled.complete] at hstep
    exact hstep
  obtain ⟨ds, h₃, hnat₃⟩ := hds hok₃
  change exec (.getbits (BitVec.ofNat 6 (distExtra.getD t₃.result.toNat 0))) t₃ = .next t₄ at hextra₄
  rw [hnat₃] at hlt hextra₄ ⊢
  have hp₃ : t₃.pstate ≠ .idle := by
    rw [(h₃.sameStream (decodeSymbol_frame _)).pstate]
    exact hp₂
  obtain ⟨hdist, hdist32⟩ := toNat_extraBits (l := distExtra) (by decide) ds.toNat
  refine ⟨fun herr => ?_, fun hok₄ hcov w hw => ?_, fun hok₄ hcov => ?_⟩
  · have hraised := raised_getBits hp₃ hdist32 hextra₄ herr
    rw [hdist] at hraised
    exact hfailed (raised_matchStep_of_distExtra h₂ h₃ hlt hraised) (hraised.ne_checksum (closed_noMismatch.getBits _))
  · have h₄ := ran_getBits hp₃ hdist32 hextra₄ hok₄
    rw [hdist] at h₄
    exact (ran_stepOnce_of_length hp hran hnat hi (ran_matchStep h₂ h₃ hlt h₄ hcov)).step_iff hactive hbudget hw
  · have h₄ := ran_getBits hp₃ hdist32 hextra₄ hok₄
    rw [hdist] at h₄
    have hstep := hraise (raised_matchStep_of_distance h₂ h₃ hlt h₄ hcov)
    rw [h₄.settled.complete] at hstep
    exact hstep

/-! ### Block headers: 44_inflate.md R226, R227 -/

/-- What `ReadHeader()` does with the block type it has read. -/
def headerTail (t : Word) : Cmd Unit :=
  match t.toNat with
  | 0 => storedHeader
  | 1 => loadFixed >>= fun _ => setPState .huff
  | 2 => dynamicHeader >>= fun _ => setPState .huff
  | _ => raise .badBlockType

/-- The registers of the block header. -/
def finalNotes (f : Word) : Notes where
  bfinal _ := f.getLsbD 0

def typeNotes (t : Word) : Notes where
  btype _ := t.setWidth 2

theorem readHeader_eq : readHeader = getBits 1 >>= fun f => (modify fun c => c.noted (finalNotes f)) >>= fun _ =>
    getBits 2 >>= fun t => (modify fun c => c.noted (typeNotes t)) >>= fun _ => headerTail t := rfl

section
variable {s t v : State} {a : Word} {e : Err}

theorem State.Settled.ran_setPState (h : t.Settled) (p : PState) : Ran (setPState p) t ⟨⟩ (t.noted { pstate := fun _ => p }) :=
  h.ran_note (n := fun _ => { pstate := fun _ => p }) (fun _ _ => rfl) fun _ => rfl

/-- In `HDR` a pass is `ReadHeader()`. -/
theorem ran_stepOnce_of_hdr (hp : s.pstate = .hdr) (h : Ran readHeader s () v) : Ran stepOnce s 0 v := by
  obtain ⟨c, hrun, hrest⟩ := h
  refine ⟨c, fun r => ?_, hrest⟩
  have hp' : (s.toEngine.cleared.withResult r).pstate = .hdr := hp
  rw [stepOnce_run, hp']
  show EStateM.run (readHeader >>= fun _ => pure 0) _ = _
  rw [EStateM.run_bind, hrun]
  rfl

theorem raised_stepOnce_of_hdr (hp : s.pstate = .hdr) (h : Raised readHeader s e v) : Raised stepOnce s e v := by
  obtain ⟨c, hrun, hv⟩ := h
  refine ⟨c, fun r => ?_, hv⟩
  have hp' : (s.toEngine.cleared.withResult r).pstate = .hdr := hp
  rw [stepOnce_run, hp']
  show EStateM.run (readHeader >>= fun _ => pure 0) _ = _
  rw [EStateM.run_bind, hrun]

/-- A failed stream whose `ERR` was `SRC_EXHAUSTED` already. -/
theorem State.stepFailed_of_exhausted (h : v.err = .srcExhausted) : v.stepFailed v.err =
    { v with toEngine := { v.toEngine with pstate := .sourceExhausted, streamErr := .srcExhausted, result := 0 } } := by
  obtain ⟨c, _⟩ := v
  have hc : c.err = .srcExhausted := h
  simp only [State.stepFailed, hc, Err.terminal]

theorem raised_readHeader_of_final (h : Raised (getBits 1) s e v) : Raised readHeader s e v := h.bind

section
variable {t₁ t₂ : State} {f b : Word} (h₁ : Ran (getBits 1) s f t₁)
include h₁

theorem raised_readHeader_of_type (h : Raised (getBits 2) t₁ e v) : Raised readHeader s e (v.noted (finalNotes f)) := by
  have hnote := h₁.settled.ran_note (n := fun _ => finalNotes f) (fun _ _ => rfl) fun _ => rfl
  exact h₁.raised (hnote.raised (h.noted (fun n => (closed_commutes n).getBits 2) rfl).bind)

variable (h₂ : Ran (getBits 2) t₁ b t₂)
include h₂

theorem ran_readHeader (h : Ran (headerTail b) ((t₂.noted (finalNotes f)).noted (typeNotes b)) () v) : Ran readHeader s () v := by
  have hnote := h₁.settled.ran_note (n := fun _ => finalNotes f) (fun _ _ => rfl) fun _ => rfl
  have htype := h₂.noted (n := finalNotes f) fun n => (closed_commutes n).getBits 2
  exact h₁.bind (hnote.bind (htype.bind ((htype.settled.ran_note (n := fun _ => typeNotes b) (fun _ _ => rfl) fun _ => rfl).bind h)))

theorem raised_readHeader (h : Raised (headerTail b) ((t₂.noted (finalNotes f)).noted (typeNotes b)) e v) : Raised readHeader s e v := by
  have hnote := h₁.settled.ran_note (n := fun _ => finalNotes f) (fun _ _ => rfl) fun _ => rfl
  have htype := h₂.noted (n := finalNotes f) fun n => (closed_commutes n).getBits 2
  exact h₁.raised (hnote.raised (htype.raised ((htype.settled.ran_note (n := fun _ => typeNotes b) (fun _ _ => rfl) fun _ => rfl).raised h)))
end

theorem ran_loadFixed {f : State} (h : exec .fixed t = .next f) : Ran loadFixed t () f := by
  have hrun := loadFixed_run t.toEngine.cleared
  have hbody : (bodyOf .fixed).run t.toEngine.cleared = .ok (some 0) t.toEngine.cleared.withFixed := by
    show EStateM.run (loadFixed >>= fun _ => pure (some 0)) _ = _
    rw [EStateM.run_bind, hrun]
    rfl
  obtain rfl := Host.Outcome.next.inj ((exec_of_ok (i := .fixed) rfl hbody).symm.trans h)
  exact ran_of_run (r := 0) (Cmd.Closed.blind fun n => (closed_commutes n).loadFixed) hrun rfl rfl

theorem ran_alignBits (hs : s.pstate ≠ .idle) (h : exec .align s = .next t) : Ran alignBits s () t := by
  obtain rfl := Host.Outcome.next.inj ((exec_align hs).symm.trans h)
  exact ran_of_run (r := 0) (Cmd.Closed.blind fun n => (closed_commutes n).alignBits) (alignBits_run _) rfl rfl

theorem State.Settled.ran_dynamicHeader {c : Engine} (h : s.Settled) (hrun : dynamicHeader.run s.toEngine = .ok () c) :
    Ran dynamicHeader s () { s with toEngine := c } := by
  have herr : c.err = s.err := (congrArg Engine.err (sequencerClosed_mute.dynamicHeader.of_ok hrun).same :)
  exact h.ran (fun r => ((closed_commutes { result := fun _ => r }).dynamicHeader).run_of_ok hrun) (herr.trans h.2.2)

theorem State.Settled.raised_dynamicHeader {c : Engine} (h : s.Settled) (hrun : dynamicHeader.run s.toEngine = .error (.raise e) c) :
    Raised dynamicHeader s e (s.complete (c.takeError e)) :=
  raised_of_run (Cmd.Closed.blind fun n => (closed_commutes n).dynamicHeader) (h.cleared ▸ hrun) rfl

end

section
variable {s a l nl : State} {len nlen : Word} {e : Err} (ha : Ran alignBits s () a)
include ha

theorem raised_storedHeader_of_len (h : Raised (getBits 16) a e l) : Raised storedHeader s e l := ha.raised h.bind

variable (hl : Ran (getBits 16) a len l)
include hl

theorem raised_storedHeader_of_nlen (h : Raised (getBits 16) l e nl) : Raised storedHeader s e nl := ha.raised (hl.raised h.bind)

variable (hnl : Ran (getBits 16) l nlen nl)
include hnl

theorem raised_storedHeader_of_mismatch (h : nlen ≠ len ^^^ 0xFFFF#32) :
    Raised storedHeader s .badStoredLen (nl.complete (nl.toEngine.takeError .badStoredLen)) :=
  ha.raised (hl.raised (hnl.raised (hnl.settled.raised_require (decide_eq_false h)).bind))

theorem ran_storedHeader (h : nlen = len ^^^ 0xFFFF#32) :
    Ran storedHeader s () (nl.noted { srem := fun _ => len.setWidth 16, pstate := fun _ => .stored }) :=
  ha.bind (hl.bind (hnl.bind ((hnl.settled.ran_require (decide_eq_true h)).bind
    (hnl.settled.ran_note (n := fun _ => { srem := fun _ => len.setWidth 16, pstate := fun _ => .stored }) (fun _ _ => rfl) fun _ => rfl))))
end

/-- Settles O43: a pass in `HDR` is `ReadHeader()`, made of the reads of the host-level commands. -/
theorem stepReadsTheBlockHeader : Obligations.StepReadsTheBlockHeader := by
  intro s t₁ cap hp hbudget hget₁
  have hactive : s.pstate.active = true := by rw [hp]; rfl
  have hidle : s.pstate ≠ .idle := PState.ne_of_active hactive rfl
  have hraise {e : Err} {v : State} (h : Raised readHeader s e v) : exec (.step cap) s = .next (v.stepFailed e) :=
    (raised_stepOnce_of_hdr hp h).step hactive hbudget
  have hgoes {v : State} (h : Ran readHeader s () v) (w : State) (hw : w.busy = false) :
      exec (.step cap) s = .next w ↔ exec (.step cap) v = .next w := (ran_stepOnce_of_hdr hp h).step_iff hactive hbudget hw
  have hended {v : State} (h : Raised readHeader s v.err v) (hv : v.err = .srcExhausted) : exec (.step cap) s = .next { v with
      toEngine := { v.toEngine with pstate := .sourceExhausted, streamErr := .srcExhausted, result := 0 } } := by
    rw [hraise h, State.stepFailed_of_exhausted hv]
  have hexhausted {v : State} (hv : v.err = .srcExhausted) : v.err ≠ .none := by
    rw [hv]
    decide
  refine ⟨fun herr => hended (raised_readHeader_of_final (raised_getBits hidle (by decide) hget₁ (hexhausted herr))) herr,
    fun hok₁ t₂ hget₂ => ?_⟩
  have h₁ := ran_getBits hidle (by decide) hget₁ hok₁
  have hp₁ : t₁.pstate ≠ .idle := by
    rw [(h₁.sameStream (getBits_frame _)).pstate]
    exact hidle
  have hread (hok₂ : t₂.ok) := ran_getBits hp₁ (by decide) hget₂ hok₂
  have hset (h₂ : Ran (getBits 2) t₁ t₂.result t₂) : ((t₂.noted (finalNotes t₁.result)).noted (typeNotes t₂.result)).Settled :=
    h₂.settled
  refine ⟨fun herr => ?_, fun hok₂ htype => ?_, fun hok₂ htype f hf w hw => ?_,
    fun hok₂ htype => ⟨fun c hrun w hw => ?_, fun e c hrun => ?_⟩, fun hok₂ htype a l hal hgl => ?_⟩
  · exact hended (v := t₂.noted (finalNotes t₁.result))
      (raised_readHeader_of_type h₁ (raised_getBits hp₁ (by decide) hget₂ (hexhausted herr))) herr
  · have h₂ := hread hok₂
    have htail : headerTail t₂.result = raise .badBlockType := by rw [htype]; rfl
    have hstep := hraise (raised_readHeader h₁ h₂ (by rw [htail]; exact (hset h₂).raised))
    rw [(hset h₂).complete] at hstep
    exact hstep
  · have htail : headerTail t₂.result = loadFixed >>= fun _ => setPState .huff := by rw [htype]; rfl
    have hfixed := ran_loadFixed hf
    have hpass := Ran.bind (f := fun _ => setPState .huff) hfixed (hfixed.settled.ran_setPState .huff)
    exact hgoes (ran_readHeader h₁ (hread hok₂) (by rw [htail]; exact hpass)) w hw
  · have h₂ := hread hok₂
    have htail : headerTail t₂.result = dynamicHeader >>= fun _ => setPState .huff := by rw [htype]; rfl
    have hdyn := (hset h₂).ran_dynamicHeader hrun
    have hpass := Ran.bind (f := fun _ => setPState .huff) hdyn (hdyn.settled.ran_setPState .huff)
    exact hgoes (ran_readHeader h₁ h₂ (by rw [htail]; exact hpass)) w hw
  · have h₂ := hread hok₂
    have htail : headerTail t₂.result = dynamicHeader >>= fun _ => setPState .huff := by rw [htype]; rfl
    have hdyn := (hset h₂).raised_dynamicHeader hrun
    have hstep := hraise (raised_readHeader h₁ h₂ (by rw [htail]; exact hdyn.bind))
    rw [State.stepFailed, Err.terminal_of_ne_checksum (hdyn.ne_checksum closed_noMismatch.dynamicHeader), (hset h₂).complete] at hstep
    exact hstep
  have h₂ := hread hok₂
  have htail : headerTail t₂.result = storedHeader := by rw [htype]; rfl
  have hstored {e : Err} {v : State} (h : Raised storedHeader _ e v) : Raised readHeader s e v :=
    raised_readHeader h₁ h₂ (by rw [htail]; exact h)
  have hp₂ : ((t₂.noted (finalNotes t₁.result)).noted (typeNotes t₂.result)).pstate ≠ .idle := by
    show t₂.pstate ≠ .idle
    rw [(h₂.sameStream (getBits_frame _)).pstate]
    exact hp₁
  have ha := ran_alignBits hp₂ hal
  have hpa : a.pstate ≠ .idle := by
    rw [(ha.sameStream fun _ => rfl).pstate]
    exact hp₂
  refine ⟨fun herr => hended (hstored (raised_storedHeader_of_len ha (raised_getBits hpa (by decide) hgl (hexhausted herr)))) herr,
    fun hokl nl hgnl => ?_⟩
  have hl := ran_getBits hpa (by decide) hgl hokl
  have hpl : l.pstate ≠ .idle := by
    rw [(hl.sameStream (getBits_frame _)).pstate]
    exact hpa
  have hread₄ (hok : nl.ok) := ran_getBits hpl (by decide) hgnl hok
  refine ⟨fun herr => hended (hstored (raised_storedHeader_of_nlen ha hl (raised_getBits hpl (by decide) hgnl (hexhausted herr)))) herr,
    fun hok heq w hw => ?_, fun hok hne => ?_⟩
  · exact hgoes (ran_readHeader h₁ h₂ (by rw [htail]; exact ran_storedHeader ha hl (hread₄ hok) heq)) w hw
  · have hstep := hraise (hstored (raised_storedHeader_of_mismatch ha hl (hread₄ hok) hne))
    rw [(hread₄ hok).settled.complete] at hstep
    exact hstep

/-! ### Back-references: 44_inflate.md R232 -/

/-- What copying `k` bytes takes from `LZ_REM`. -/
def copyNotes (k : Nat) : Notes where
  lzRem v := v - BitVec.ofNat 9 k

theorem stepOnce_run_of_copy {c c₁ c₂ : Engine} {b : Byte} (hp : c.pstate = .copy) (hrem : c.lzRem ≠ 0)
    (hread : (histRead c.lzDist.toNat).run c = .ok b c₁) (hemit : (emit b).run c₁ = .ok () c₂) :
    stepOnce.run c = .ok 1 (c₂.noted (copyNotes 1)) := by
  rw [stepOnce_run, hp]
  simp only [copyStep, EStateM.run_bind, EStateM.run_get, if_neg hrem, hread, hemit]
  rfl

/-- The passes of a back-reference are those of a copy. -/
theorem stepEnd_of_copyLoop {c c' : Engine} {k produced : Nat} (hp : c.pstate = .copy) (hk : k ≤ c.lzRem.toNat)
    (h : (copyLoop c.lzDist.toNat k).run c = .ok () c') :
    stepEnd k produced c = some ((c'.noted (copyNotes k)).withResult (BitVec.ofNat 32 (produced + k))) := by
  induction k generalizing c c' produced with
  | zero =>
    cases h
    have hnone : c.noted (copyNotes 0) = c := by simp [Engine.noted, copyNotes]
    rw [stepEnd_zero, hnone, Nat.add_zero]
  | succ k ih =>
    obtain ⟨b, c₁, hread, hrest⟩ := Cmd.bind_eq_ok h
    obtain ⟨_, c₂, hemit, hloop⟩ := Cmd.bind_eq_ok hrest
    have hrem : c.lzRem ≠ 0 := by
      intro hzero
      rw [hzero] at hk
      exact absurd hk (Nat.not_succ_le_zero k)
    have hpass := stepOnce_run_of_copy hp hrem hread hemit
    obtain ⟨p, rfl⟩ := histRead_eq_ok hread
    obtain rfl := emit_eq_ok hemit
    have hrest := ih (c := ((c.withPorts p).emitted b).noted (copyNotes 1)) (produced := produced + 1) hp
      (by show k ≤ (c.lzRem - 1).toNat; bv_omega) ((commutes_copyLoop (copyNotes 1) _ k).run_of_ok hloop)
    have hsum : (c'.noted (copyNotes 1)).noted (copyNotes k) = c'.noted (copyNotes (k + 1)) := by
      simp only [Engine.noted, copyNotes, id, BitVec.ofNat_add, BitVec.sub_sub, BitVec.add_comm]
    rw [stepEnd_of_pass (by rw [hp]; rfl) k.succ_ne_zero hpass, Nat.succ_sub_one, hrest, hsum, Nat.add_assoc, Nat.add_comm 1 k]

/-- A pass that only moves `PSTATE`: `STEP` goes on in the new state. -/
theorem exec_step_of_move {s w : State} {cap : BitVec 26} {p : PState} (hp : s.pstate.active = true) (hbudget : s.toEngine.budget cap ≠ 0)
    (hpass : ∀ r, stepOnce.run (s.toEngine.cleared.withResult r) = .ok 0 ((s.toEngine.cleared.noted { pstate := fun _ => p }).withResult r))
    (hw : w.busy = false) :
    exec (.step cap) s = .next w ↔ exec (.step cap) { s with toEngine := { s.toEngine with pstate := p } } = .next w := by
  have hran : Ran stepOnce s 0 (s.complete ((s.toEngine.cleared.noted { pstate := fun _ => p }).withResult s.result)) :=
    ⟨_, hpass, rfl, s.result, rfl⟩
  rw [hran.step_iff hp hbudget hw]
  exact iff_of_eq (congrArg (· = _) (exec_congr rfl rfl rfl rfl))

/-- Settles O40: the passes in `COPY` are those of the loop of the command, one byte each. -/
theorem stepInCopyStateIsCopy : Obligations.StepInCopyStateIsCopy := by
  refine ⟨fun s u n cap hp hrem hcap hcopy hok => ?_, fun s w cap hp hrem hbudget hw => ?_⟩
  · obtain ⟨-, -, -, hroom, c, hloop, rfl⟩ := exec_copy_ok hcopy hok
    have hbudget : s.toEngine.budget cap = n.toNat := by
      unfold Engine.budget
      split
      · next hres =>
        rw [hcap, Nat.min_eq_left]
        exact Nat.not_lt.mp fun hlt => hroom ⟨hres, hlt⟩
      · exact hcap
    have hframe : OutFrame s.toEngine.cleared c := Cmd.after_of_ok hloop ▸ copyLoop_outFrame _ _ s.toEngine.cleared
    have hlz : c.lzRem = s.lzRem := by rw [hframe]; rfl
    have hend := stepEnd_of_copyLoop (c := s.toEngine.cleared) (produced := 0) hp hrem hloop
    rw [← hbudget] at hend
    refine (exec_step_iff (.inl (by rw [hp]; rfl)) (by rfl)).mpr ⟨_, hend, ?_⟩
    have hwide : n.setWidth 32 = BitVec.ofNat 32 (0 + s.toEngine.budget cap) := by rw [hbudget]; bv_omega
    have hnat : BitVec.ofNat 9 (s.toEngine.budget cap) = n := by rw [hbudget]; bv_omega
    have hengine : (c.noted (copyNotes (s.toEngine.budget cap))).withResult (BitVec.ofNat 32 (0 + s.toEngine.budget cap)) =
        { c with lzRem := s.lzRem - n, result := n.setWidth 32 } := by
      simp only [Engine.noted, Engine.withResult, copyNotes, id, hlz, hnat, hwide]
    rw [hengine]
    rfl
  · refine exec_step_of_move (by rw [hp]; rfl) hbudget (fun r => ?_) hw
    have hp' : (s.toEngine.cleared.withResult r).pstate = .copy := hp
    have hrem' : (s.toEngine.cleared.withResult r).lzRem = 0 := hrem
    rw [stepOnce_run, hp']
    simp only [copyStep, EStateM.run_bind, EStateM.run_get, hrem', if_true]
    rfl

end Sys2Proof.Machine
end

section
/-! SUPPORT. The end of the source (40_bitreader.md R121, R124): a read that finds too few bits, in `GetBits` and in `Decode`, and the
front of the source that begins no code (42_huffman.md R172, R173). At the end the settled statements. -/

namespace Sys2Proof.Machine

/-! ### The end of the source -/

section
variable {c c' : Engine} {b : Bool}

theorem byteBits_ne_nil (b : Byte) : byteBits b ≠ [] := by
  rw [byteBits]
  exact fun h => by cases List.map_eq_nil_iff.mp h

theorem Engine.sourceBits_eq_nil : c.sourceBits = [] ↔ c.bitcnt = 0 ∧ c.sourceBytes = [] := by
  rw [Engine.sourceBits, List.append_eq_nil_iff, Engine.heldBits, List.map_eq_nil_iff, List.range_eq_nil, List.flatMap_eq_nil_iff]
  refine and_congr ⟨fun h => BitVec.eq_of_toNat_eq h, fun h => congrArg BitVec.toNat h⟩ ⟨fun h => ?_, fun h => ?_⟩
  · cases hb : c.sourceBytes with
    | nil => rfl
    | cons x xs => exact absurd (h x (hb ▸ List.mem_cons_self)) (byteBits_ne_nil x)
  · rw [h]
    exact fun _ hx => absurd hx List.not_mem_nil

theorem offeredBytes_ne_nil {q : List PullAnswer} {x : Byte} : offeredBytes (.byte x :: q) ≠ [] := List.cons_ne_nil _ _

/-- The engine after a fetch that meets the end. -/
def Engine.ended (c : Engine) : Engine :=
  { c with
    ports :=
      if c.latch.ctrl.srcPull then
        { c.ports with pullQ := c.ports.pullQ.drop 1, pullEnded := true, log := c.ports.log ++ [.pull .eof] }
      else c.ports }

theorem fetchSourceByte_run_of_end (h : c.sourceBytes = []) (hend : c.sourceEnds = true) :
    fetchSourceByte.run c = .error (.raise .srcExhausted) c.ended := by
  rw [Engine.sourceEnds, h] at hend
  rw [fetchSourceByte_run, Engine.ended]
  cases hpull : c.latch.ctrl.srcPull with
  | true =>
    simp only [hpull, if_true, List.length_nil, List.drop_zero, decide_eq_true_eq] at hend ⊢
    obtain ⟨rest, hq⟩ := List.head?_eq_some_iff.mp hend
    rw [pullByte_run, hq]
    rfl
  | false =>
    simp only [hpull, Bool.false_eq_true, if_false, List.length_nil, decide_eq_true_eq] at hend ⊢
    have heq : c.srcPos = c.latch.srcLen := by bv_omega
    rw [residentByte_run, if_pos heq]

theorem pullByte_run_of_nil (h : (if c.ports.pullEnded then [] else offeredBytes c.ports.pullQ) = []) (x : Byte) (c' : Engine) :
    pullByte.run c ≠ .ok x c' := by
  rw [pullByte_run]
  rcases hq : c.ports.pullQ with _ | ⟨y | _, rest⟩
  · exact fun h => by cases h
  · dsimp only
    split
    · exact fun h => by cases h
    · next hended =>
      rw [if_neg hended, hq] at h
      cases h
  · exact fun h => by cases h

theorem residentByte_run_of_nil
    (h : residentBytes c.platform c.mem (c.latch.srcLen - c.srcPos).toNat (c.latch.srcBase + c.srcPos) = []) (x : Byte) (c' : Engine) :
    residentByte.run c ≠ .ok x c' := by
  rw [residentByte_run]
  split
  · exact fun h => by cases h
  · next hne =>
    obtain ⟨k, hk⟩ := Nat.exists_eq_succ_of_ne_zero (n := (c.latch.srcLen - c.srcPos).toNat) (by bv_omega)
    rw [hk, residentBytes] at h
    rw [memRead_run]
    by_cases hbacks : c.platform.backs (c.latch.srcBase + c.srcPos) = true
    · rw [if_pos hbacks] at h ⊢
      cases hm : c.mem.read (c.latch.srcBase + c.srcPos).toNat with
      | some b =>
        rw [hm] at h
        cases h
      | none => exact fun h => by cases h
    · rw [if_neg hbacks]
      exact fun h => by cases h

/-- A source that has no byte to give answers no fetch. -/
theorem fetchSourceByte_run_of_nil (h : c.sourceBytes = []) (x : Byte) (c' : Engine) : fetchSourceByte.run c ≠ .ok x c' := by
  intro hrun
  rw [Engine.sourceBytes] at h
  rw [fetchSourceByte_run] at hrun
  split at hrun
  · next b c₁ hbyte =>
    cases hpull : c.latch.ctrl.srcPull with
    | true =>
      simp only [hpull, if_true] at h hbyte
      exact pullByte_run_of_nil h _ _ hbyte
    | false =>
      simp only [hpull, Bool.false_eq_true, if_false] at h hbyte
      exact residentByte_run_of_nil h _ _ hbyte
  · cases hrun

theorem Engine.ended_eq_drained (h : c.sourceBits = []) (hb : c.BitsBounded) : c.ended = c.drained := by
  obtain ⟨hcnt, hbytes⟩ := Engine.sourceBits_eq_nil.mp h
  have hacc : c.bitacc = 0 := by
    have hlt := hb.bitacc_lt
    rw [hcnt] at hlt
    exact BitVec.eq_of_toNat_eq (Nat.lt_one_iff.mp hlt)
  have hnone : c = { c with bitacc := 0, bitcnt := 0 } := by rw [← hacc, ← hcnt]
  rw [congrArg Engine.ended hnone, Engine.drained, hbytes]
  simp [Engine.ended]

theorem getBit_run_of_end (h : c.sourceBits = []) (hend : c.sourceEnds = true) :
    getBit.run c = .error (.raise .srcExhausted) c.ended := by
  obtain ⟨hcnt, hbytes⟩ := Engine.sourceBits_eq_nil.mp h
  rw [getBit_run, refill_run, if_pos hcnt, fetchSourceByte_run_of_end hbytes hend]

/-- A bit that was taken was the first of the source bits. -/
theorem getBit_eq_ok (h : getBit.run c = .ok b c') : c.sourceBits = b :: c'.sourceBits := by
  cases hbits : c.sourceBits with
  | nil =>
    obtain ⟨hcnt, hbytes⟩ := Engine.sourceBits_eq_nil.mp hbits
    rw [getBit_run, refill_run, if_pos hcnt] at h
    cases hfetch : fetchSourceByte.run c with
    | ok x c₁ => exact absurd hfetch (fetchSourceByte_run_of_nil hbytes x c₁)
    | error st c₁ =>
      rw [hfetch] at h
      cases h
  | cons x rest =>
    obtain ⟨c₁, hrun, hrest, -⟩ := getBit_run_of_sourceBits hbits
    cases hrun.symm.trans h
    rw [hrest]

/-! ### What taking a bit leaves of the end -/

/-- The same source end lies ahead. -/
structure Engine.SameEnd (c c' : Engine) : Prop where
  ends : c'.sourceEnds = c.sourceEnds
  drained : c'.drained = c.drained

theorem Engine.SameEnd.trans {a b c : Engine} (h : a.SameEnd b) (h' : b.SameEnd c) : a.SameEnd c :=
  ⟨h'.ends.trans h.ends, h'.drained.trans h.drained⟩

theorem Engine.sameEnd_fetched {x : Byte} {xs : List Byte} (h : c.sourceBytes = x :: xs) : c.SameEnd (c.fetched x) := by
  have hrest := (fetchSourceByte_run_of_sourceBytes h).2
  have hlen : c.sourceBytes.length = xs.length + 1 := by rw [h, List.length_cons]
  constructor
  · rw [Engine.sourceEnds, Engine.sourceEnds, hrest, hlen]
    cases hpull : c.latch.ctrl.srcPull with
    | true => simp [Engine.fetched, hpull]
    | false =>
      have hpos : (c.latch.srcLen - (c.srcPos + 1)).toNat + 1 = (c.latch.srcLen - c.srcPos).toNat := by
        rw [Engine.sourceBytes, hpull, if_neg Bool.false_ne_true] at h
        obtain ⟨-, -, k, hk, -⟩ := residentBytes_eq_cons h
        bv_omega
      simp only [Engine.fetched, hpull, Bool.false_eq_true, if_false, decide_eq_decide]
      omega
  · rw [Engine.drained, Engine.drained, hrest, h]
    have hpos : c.srcPos + 1 + BitVec.ofNat 32 xs.length = c.srcPos + BitVec.ofNat 32 (xs.length + 1) := by
      rw [Nat.add_comm, BitVec.ofNat_add, BitVec.add_assoc]
      rfl
    have hfetched : (c.fetched x).srcPos + BitVec.ofNat 32 xs.length = c.srcPos + BitVec.ofNat 32 (x :: xs).length := hpos
    rw [hfetched]
    cases hpull : c.latch.ctrl.srcPull <;> simp [Engine.fetched, hpull]

theorem getBit_sameEnd (h : getBit.run c = .ok b c') : c.SameEnd c' := by
  have hbit (d : Engine) (acc : BitVec 32) (cnt : BitVec 5) : d.SameEnd { d with bitacc := acc, bitcnt := cnt } := ⟨rfl, rfl⟩
  rw [getBit_run, refill_run] at h
  split at h
  · next c₁ hrefill =>
    cases h
    refine Engine.SameEnd.trans ?_ (hbit c₁ _ _)
    split at hrefill
    · cases hbytes : c.sourceBytes with
      | nil =>
        cases hfetch : fetchSourceByte.run c with
        | ok x c₁ => exact absurd hfetch (fetchSourceByte_run_of_nil hbytes x c₁)
        | error st c₁ =>
          rw [hfetch] at hrefill
          cases hrefill
      | cons x xs =>
        rw [(fetchSourceByte_run_of_sourceBytes hbytes).1] at hrefill
        cases hrefill
        exact (Engine.sameEnd_fetched hbytes).trans (hbit (c.fetched x) _ _)
    · cases hrefill
      exact ⟨rfl, rfl⟩
  · cases h

/-! ### Reads that meet the end: 40_bitreader.md R124 -/

/-- A piece that takes all bits of a source that ends, asks for one more, and raises `SRC_EXHAUSTED`. -/
def Cmd.Exhausts {α : Type} (x : Cmd α) (c : Engine) : Prop :=
  ∃ c', x.run c = .error (.raise .srcExhausted) c' ∧ (c.BitsBounded → c' = c.drained)

theorem Cmd.Exhausts.bind {α β : Type} {x : Cmd α} (h : x.Exhausts c) (f : α → Cmd β) : (x >>= f).Exhausts c := by
  obtain ⟨c', hrun, hc'⟩ := h
  exact ⟨c', by rw [EStateM.run_bind, hrun], hc'⟩

/-- After a piece that returned, and left the end where it was. -/
theorem Cmd.Exhausts.of_ok {α β : Type} {x : Cmd α} {f : α → Cmd β} {a : α} (hx : x.run c = .ok a c') (hend : c.SameEnd c')
    (hbounded : c.BitsBounded → c'.BitsBounded) (h : (f a).Exhausts c') : (x >>= f).Exhausts c := by
  obtain ⟨d, hrun, hd⟩ := h
  exact ⟨d, by rw [EStateM.run_bind, hx]; exact hrun, fun hb => (hd (hbounded hb)).trans hend.drained⟩

theorem exhausts_getBit (h : c.sourceBits = []) (hend : c.sourceEnds = true) : getBit.Exhausts c :=
  ⟨c.ended, getBit_run_of_end h hend, Engine.ended_eq_drained h⟩

theorem getBit_bounded (h : getBit.run c = .ok b c') (hb : c.BitsBounded) : c'.BitsBounded := ((quiet_getBit.wp c).ok _ _ h).bits hb

/-- A loop of bits that the source does not have. -/
theorem exhausts_getBitsLoop {k i : Nat} {v : Word} (h : c.sourceBits.length < k) (hend : c.sourceEnds = true) :
    (getBitsLoop k i v).Exhausts c := by
  induction k generalizing i v c with
  | zero => exact absurd h (Nat.not_lt_zero _)
  | succ k ih =>
    cases hbits : c.sourceBits with
    | nil => exact (exhausts_getBit hbits hend).bind _
    | cons x rest =>
      obtain ⟨c₁, hrun, hrest, -⟩ := getBit_run_of_sourceBits hbits
      have hsame := getBit_sameEnd hrun
      rw [hbits, List.length_cons] at h
      exact .of_ok hrun hsame (getBit_bounded hrun) (ih (by rw [hrest]; omega) (hsame.ends.trans hend))

theorem exhausts_getBits {n : Nat} (h : c.sourceBits.length < n) (hend : c.sourceEnds = true) : (getBits n).Exhausts c :=
  exhausts_getBitsLoop h hend
end

theorem length_heldBits (c : Engine) : c.heldBits.length = c.bitcnt.toNat := by
  rw [Engine.heldBits, List.length_map, List.length_range]

theorem length_sourceBits (c : Engine) : c.sourceBits.length = c.bitcnt.toNat + 8 * c.sourceBytes.length := by
  rw [Engine.sourceBits, List.length_append, length_heldBits]
  congr 1
  induction c.sourceBytes with
  | nil => rfl
  | cons x xs ih =>
    have h8 : (byteBits x).length = 8 := by rw [byteBits, List.length_map, List.length_range]
    rw [List.flatMap_cons, List.length_append, ih, h8, List.length_cons]
    omega

theorem offeredBytes_map (bs : List Byte) (rest : List PullAnswer) : offeredBytes (bs.map .byte ++ .eof :: rest) = bs := by
  induction bs with
  | nil => rfl
  | cons b bs ih => exact congrArg (b :: ·) ih

theorem Engine.Inv.cleared {c : Engine} (hi : c.Inv) : c.cleared.Inv := { hi with }

/-- The next state of a `GETBITS` or `GETBYTE` that the source cannot answer. -/
theorem exec_getBits_of_end {i : Instr} {n : Nat} {s : State}
    (hi : (∃ k : BitVec 6, i = .getbits k ∧ k.toNat = n) ∨ (i = .getbyte ∧ n = 8)) (hn : n ≤ 32) (hs : s.pstate ≠ .idle)
    (hinv : s.toEngine.Inv) (hlt : s.toEngine.sourceBits.length < n) (hend : s.toEngine.sourceEnds = true) :
    exec i s = .next (s.complete (s.toEngine.cleared.drained.takeError .srcExhausted)) := by
  obtain ⟨c, hrun, hc⟩ := exhausts_getBits (c := s.toEngine.cleared) hlt hend
  rw [hc hinv.cleared.bitsBounded] at hrun
  have hbody : (requireStream >>= fun _ => some <$> getBits n : Cmd (Option Word)).run s.toEngine.cleared =
      .error (.raise .srcExhausted) s.toEngine.cleared.drained := by
    rw [streamBody_run hs, EStateM.run_map, hrun]
    rfl
  rcases hi with ⟨k, rfl, rfl⟩ | ⟨rfl, rfl⟩
  · exact exec_of_raise (i := .getbits k) (decide_eq_true hn) hbody
  · exact exec_of_raise (i := .getbyte) rfl hbody

/-- Settles O23: the bits before the end are taken one by one, and the next one meets it. -/
theorem getbitsAtTheEndOfTheSource : Obligations.GetbitsAtTheEndOfTheSource := by
  intro i n s hi hn hs hinv
  refine ⟨fun hpull hlen hlt => ?_, fun bs rest hpull hended hq hlt => ?_⟩
  · have hend : s.toEngine.sourceEnds = true := by
      rw [Engine.sourceEnds, hpull, if_neg Bool.false_ne_true, decide_eq_true hlen]
    rw [exec_getBits_of_end hi hn hs hinv hlt hend]
    have hle := hinv.srcPos_le hpull
    have hpos : s.srcPos + BitVec.ofNat 32 s.toEngine.sourceBytes.length = s.latch.srcLen := by
      rw [hlen]
      bv_omega
    have hdrained : s.toEngine.cleared.drained = { s.toEngine.cleared with bitacc := 0, bitcnt := 0, srcPos := s.latch.srcLen } := by
      have hpull' : ¬ s.toEngine.cleared.latch.ctrl.srcPull = true := by
        rw [Engine.cleared_latch, hpull]
        exact Bool.false_ne_true
      rw [Engine.drained, if_neg hpull', ← hpos]
      rfl
    rw [hdrained]
    rfl
  · have hbytes : s.toEngine.sourceBytes = bs := by
      rw [Engine.sourceBytes, if_pos hpull, hended, if_neg Bool.false_ne_true, hq, offeredBytes_map]
    have hend : s.toEngine.sourceEnds = true := by
      rw [Engine.sourceEnds, if_pos hpull, hbytes, hq, List.drop_left' (List.length_map _)]
      rfl
    rw [exec_getBits_of_end hi hn hs hinv (by rw [length_sourceBits, hbytes]; exact hlt) hend]
    have hdrained : s.toEngine.cleared.drained = { s.toEngine.cleared with
        bitacc := 0, bitcnt := 0, srcPos := s.srcPos + BitVec.ofNat 32 bs.length
        ports := { s.ports with
          pullQ := rest, pullEnded := true, log := s.ports.log ++ bs.map (fun b => .pull (.byte b)) ++ [.pull .eof] } } := by
      have hbytes' : s.toEngine.cleared.sourceBytes = bs := hbytes
      have hdrop : s.ports.pullQ.drop (bs.length + 1) = rest := by
        rw [hq, ← List.drop_drop, List.drop_left' (List.length_map _)]
        rfl
      have hpull' : s.toEngine.cleared.latch.ctrl.srcPull = true := hpull
      rw [Engine.drained, hbytes', if_pos hpull', Engine.cleared_ports, hdrop]
      rfl
    rw [hdrained]
    rfl

/-! ### Bits that begin no code: 42_huffman.md R172, R173 -/

/-- Every rank below the number of symbols of a length is the rank of one of them. -/
theorem exists_symbol_of_rank {ls : List (BitVec 4)} {l r : Nat} (hr : r < lengthCount ls l) :
    ∃ i, i < ls.length ∧ (ls.getD i 0).toNat = l ∧ lengthRank ls i = r := by
  have hall (n : Nat) (hn : n ≤ ls.length) (h : r < lengthCount (ls.take n) l) :
      ∃ i, i < ls.length ∧ (ls.getD i 0).toNat = l ∧ lengthRank ls i = r := by
    induction n with
    | zero => exact absurd h (Nat.not_lt_zero r)
    | succ n ih =>
      by_cases hlt : r < lengthCount (ls.take n) l
      · exact ih (Nat.le_of_succ_le hn) hlt
      · rw [lengthCount_take_succ hn] at h
        split at h
        · next hl => exact ⟨n, hn, hl, by rw [lengthRank, hl]; omega⟩
        · omega
  exact hall ls.length le_rfl (by rwa [List.take_length])

/-- One bit more behind a number. -/
theorem lowBits_two_mul_add (v n : Nat) (b : Bool) : lowBits (2 * v + b.toNat) (n + 1) = lowBits v n ++ [b] := by
  induction n with
  | zero => cases b <;> simp [lowBits, Nat.testBit_eq_decide_div_mod_eq, Nat.add_mod]
  | succ n ih =>
    have hbit : (2 * v + b.toNat).testBit (n + 1) = v.testBit n := by
      rw [Nat.testBit_succ]
      congr 1
      have := b.toNat_le
      omega
    rw [lowBits_succ, ih, lowBits_succ v n, hbit, List.cons_append]

section
variable {sl : Slot} {t : Tree} {ls : List (BitVec 4)} {c c' : Engine}

/-- The bits `code` of length `l - 1` and the source behind them begin no code. -/
def NoCode (ls : List (BitVec 4)) (l code : Nat) (bits : List Bool) : Prop :=
  ∀ i, i < ls.length → ls.getD i 0 ≠ 0 → ¬ codeBits ls i <+: lowBits code (l - 1) ++ bits

/-- One more bit begins no code either, and is past the codes of the next length. -/
theorem NoCode.step {l code : Nat} {b : Bool} {rest : List Bool} (h : NoCode ls l code (b :: rest)) (hl : 1 ≤ l)
    (hfirst : firstCode ls l ≤ 2 * code) :
    firstCode ls l + lengthCount ls l ≤ 2 * code + b.toNat ∧ NoCode ls (l + 1) (2 * code + b.toNat) rest := by
  have hbits : lowBits (2 * code + b.toNat) l = lowBits code (l - 1) ++ [b] := by
    obtain ⟨k, rfl⟩ := Nat.exists_eq_add_of_le' hl
    exact lowBits_two_mul_add code k b
  have hall : lowBits code (l - 1) ++ b :: rest = lowBits (2 * code + b.toNat) l ++ rest := by
    rw [hbits, List.append_assoc, List.singleton_append]
  refine ⟨?_, fun i hi hcoded => by rw [Nat.add_sub_cancel, ← hall]; exact h i hi hcoded⟩
  by_contra hlt
  obtain ⟨i, hi, hlen, hrank⟩ := exists_symbol_of_rank (ls := ls) (l := l) (r := 2 * code + b.toNat - firstCode ls l) (by omega)
  have hcoded : ls.getD i 0 ≠ 0 := fun hzero => by
    rw [hzero] at hlen
    exact absurd hlen.symm (Nat.ne_of_gt hl)
  have hsym : symbolCode ls i = 2 * code + b.toNat := by
    rw [symbolCode, hlen, hrank]
    omega
  refine h i hi hcoded ?_
  rw [codeBits_eq, hlen, hsym, hall]
  exact List.prefix_append _ _

theorem decodeLoop_run_of_noCode (ht : t.Canonical ls) {k l code : Nat} (hl : 1 ≤ l) (hk : l + k = 16)
    (hfirst : firstCode ls l ≤ 2 * code) (hno : NoCode ls l code c.sourceBits) :
    (k ≤ c.sourceBits.length → ∃ c', (decodeLoop sl t k l code (firstCode ls l) (baseIndex ls l)).run c =
      .error (.raise .invalidCode) c' ∧ c'.sourceBits = c.sourceBits.drop k ∧ c.TookBits c') ∧
    (c.sourceBits.length < k → c.sourceEnds = true →
      (decodeLoop sl t k l code (firstCode ls l) (baseIndex ls l)).Exhausts c) := by
  induction k generalizing l code c with
  | zero => exact ⟨fun _ => ⟨c, rfl, rfl, .refl c⟩, fun h => absurd h (Nat.not_lt_zero _)⟩
  | succ k ih =>
    cases hbits : c.sourceBits with
    | nil => exact ⟨fun h => absurd h (Nat.not_succ_le_zero k), fun _ hend => (exhausts_getBit hbits hend).bind _⟩
    | cons b rest =>
      rw [hbits] at hno
      obtain ⟨hpast, hno'⟩ := hno.step hl hfirst
      obtain ⟨c₁, hrun, hrest, htook⟩ := getBit_run_of_sourceBits hbits
      obtain ⟨n, hn, hcount⟩ := Option.map_eq_some_iff.mp (ht.count l hl (by omega))
      have hmiss : ¬ 2 * code + b.toNat - firstCode ls l < n.toNat := by omega
      rw [← hrest] at hno'
      have hnext := ih (c := c₁) (l := l + 1) (by omega) (by omega) (by rw [firstCode_succ hl]; omega) hno'
      have hgo : (decodeLoop sl t (k + 1) l code (firstCode ls l) (baseIndex ls l)).run c =
          (decodeLoop sl t k (l + 1) (2 * code + b.toNat) (firstCode ls (l + 1)) (baseIndex ls (l + 1))).run c₁ := by
        rw [decodeLoop_succ_run, hrun, firstCode_succ hl, baseIndex_succ hl, ← hcount]
        simp only [hn, if_neg hmiss]
      rw [hrest] at hnext
      refine ⟨fun hle => ?_, fun hlt hend => ?_⟩
      · obtain ⟨c₂, hrun₂, hrest₂, htook₂⟩ := hnext.1 (Nat.le_of_succ_le_succ hle)
        exact ⟨c₂, hgo.trans hrun₂, hrest₂, htook.trans htook₂⟩
      · have hsame := getBit_sameEnd hrun
        obtain ⟨c₂, hrun₂, hc₂⟩ := hnext.2 (Nat.lt_of_succ_lt_succ hlt) (hsame.ends.trans hend)
        exact ⟨c₂, hgo.trans hrun₂, fun hb => (hc₂ (getBit_bounded hrun hb)).trans hsame.drained⟩

theorem decodeSymbol_run_of_valid (h : (c.tree sl).valid = true) :
    (decodeSymbol sl).run c = (decodeLoop sl (c.tree sl) Config.maxBits 1 0 0 0).run c := by
  generalize hk : Config.maxBits = k
  rw [decodeSymbol, hk, EStateM.run_bind, EStateM.run_get]
  simp only [EStateM.run_bind, require_run, h, if_true]

/-- `Decode` of bits that begin no code. -/
theorem decodeSymbol_run_of_noCode (ht : (c.tree sl).Canonical ls)
    (hno : ∀ i, i < ls.length → ls.getD i 0 ≠ 0 → ¬ codeBits ls i <+: c.sourceBits) :
    (15 ≤ c.sourceBits.length → ∃ c', (decodeSymbol sl).run c = .error (.raise .invalidCode) c' ∧
      c'.sourceBits = c.sourceBits.drop 15 ∧ c.TookBits c') ∧
    (c.sourceBits.length < 15 → c.sourceEnds = true → (decodeSymbol sl).Exhausts c) := by
  have hnone : NoCode ls 1 0 c.sourceBits := fun i hi hcoded => by
    rw [Nat.sub_self, lowBits, List.range_zero, List.map_nil, List.nil_append]
    exact hno i hi hcoded
  have hloop := decodeLoop_run_of_noCode (sl := sl) (c := c) (k := Config.maxBits) (code := 0) ht le_rfl rfl (Nat.zero_le _) hnone
  have hrun := decodeSymbol_run_of_valid ht.valid
  refine ⟨fun hle => ?_, fun hlt hend => ?_⟩
  · rw [hrun]
    exact hloop.1 hle
  · obtain ⟨c₁, hrun₁, hc₁⟩ := hloop.2 hlt hend
    exact ⟨c₁, hrun.trans hrun₁, hc₁⟩

/-- Reading a bit fails only at the end of the source. -/
theorem getBit_eq_raise {e : Err} (h : getBit.run c = .error (.raise e) c') : e = .srcExhausted := by
  rw [getBit_run, refill_run] at h
  split at h
  · cases h
  · next st c₁ hrefill =>
    cases h
    split at hrefill
    · split at hrefill
      · cases hrefill
      · next st c₂ hfetch =>
        cases hrefill
        rw [fetchSourceByte_run] at hfetch
        split at hfetch
        · cases hfetch
        · next st c₃ hbyte =>
          cases hfetch
          split at hbyte
          · exact ((pullByte_wp c).raise _ _ hbyte).1
          · exact ((residentByte_wp c).raise _ _ hbyte).1
    · cases hrefill

/-- The loop gives up only after its last bit. -/
theorem decodeLoop_eq_invalidCode {k l code first index : Nat}
    (h : (decodeLoop sl t k l code first index).run c = .error (.raise .invalidCode) c') :
    k ≤ c.sourceBits.length ∧ c'.sourceBits = c.sourceBits.drop k := by
  have hentry (table : Cells (BitVec 9)) (i : Nat) (c c' : Engine) (e : Err) : (treeEntry sl table i).run c ≠ .error (.raise e) c' := by
    rw [treeEntry_run]
    cases table.read i <;> exact fun h => by cases h
  induction k generalizing l code first index c with
  | zero =>
    cases h
    exact ⟨Nat.zero_le _, rfl⟩
  | succ k ih =>
    rw [decodeLoop_succ_run] at h
    cases hbit : getBit.run c with
    | error st c₁ =>
      rw [hbit] at h
      cases h
      cases getBit_eq_raise hbit
    | ok b c₁ =>
      rw [hbit] at h
      have hbits := getBit_eq_ok hbit
      dsimp only at h
      split at h
      · cases h
      · split at h
        · exact absurd h (hentry _ _ _ _ _)
        · obtain ⟨hle, hdrop⟩ := ih h
          rw [hbits]
          exact ⟨Nat.succ_le_succ hle, hdrop⟩

theorem decodeSymbol_run_of_invalid (h : (c.tree sl).valid = false) :
    (decodeSymbol sl).run c = .error (.raise .treeNotBuilt) c := by
  generalize hk : Config.maxBits = k
  rw [decodeSymbol, hk, EStateM.run_bind, EStateM.run_get]
  simp only [EStateM.run_bind, require_run, h, Bool.false_eq_true, if_false]

theorem decodeSymbol_eq_invalidCode (h : (decodeSymbol sl).run c = .error (.raise .invalidCode) c') :
    15 ≤ c.sourceBits.length ∧ c'.sourceBits = c.sourceBits.drop 15 := by
  cases hv : (c.tree sl).valid with
  | false =>
    rw [decodeSymbol_run_of_invalid hv] at h
    cases h
  | true =>
    rw [decodeSymbol_run_of_valid hv] at h
    exact decodeLoop_eq_invalidCode h
end

/-- The next state of a `DECODE` that raises. -/
theorem exec_decode_of_raise {s : State} {slot : BitVec 2} {e : Err} {c : Engine} (hslot : slot ≠ 3) (hs : s.pstate ≠ .idle)
    (h : (decodeSymbol (Slot.ofCode slot)).run s.toEngine.cleared = .error (.raise e) c) :
    exec (.decode slot) s = .next (s.complete (c.takeError e)) := by
  refine exec_of_raise (i := .decode slot) (decide_eq_true (by bv_omega)) ((streamBody_run hs).trans ?_)
  rw [EStateM.run_bind, h]

/-- Settles O29: a slot that is not valid is refused; a decode from a valid one fails with its last bit or with the end of the source. -/
theorem decodeFailuresConsumeTheirBits : Obligations.DecodeFailuresConsumeTheirBits := by
  intro s slot hslot hs
  have htree : s.toEngine.cleared.tree (Slot.ofCode slot) = s.toEngine.tree (Slot.ofCode slot) := Engine.cleared_tree _ _
  refine ⟨fun hinvalid => ?_, fun t ht herr => ?_, fun old ls hbuilt hlen hkraft hno => ?_⟩
  · exact exec_decode_of_raise (c := s.toEngine.cleared) hslot hs (decodeSymbol_run_of_invalid (by rw [htree]; exact hinvalid))
  · have hwf : (Instr.decode slot).wf = true := decide_eq_true (by bv_omega)
    obtain ⟨c, hrun, htc⟩ := (runCmd_readAndReport hwf hs (quiet_decodeSymbol _) (decodeSymbol_frame _)
      ((execDecode_eq slot s).symm.trans ht)).2 (by rw [herr]; decide)
    rw [herr] at hrun htc
    subst htc
    obtain ⟨hle, hdrop⟩ := decodeSymbol_eq_invalidCode hrun
    have hframe := decodeSymbol_frame (Slot.ofCode slot) { s.toEngine with err := .none }
    rw [Cmd.after_of_error hrun, BitFrame] at hframe
    exact ⟨hle, hdrop, rfl, rfl, (congrArg Engine.pstate hframe :)⟩
  · have hcanonical : (s.toEngine.cleared.tree (Slot.ofCode slot)).Canonical ls := by
      rw [htree, hbuilt]
      exact canonical_builtTree old hlen
    obtain ⟨hlong, hshort⟩ := decodeSymbol_run_of_noCode hcanonical hno
    refine ⟨fun hle => ?_, fun hinv hlt hend => ?_⟩
    · obtain ⟨c, hrun, hdrop, htook⟩ := hlong hle
      refine ⟨_, exec_decode_of_raise hslot hs hrun, hdrop, ?_⟩
      exact congrArg (fun c : Engine => s.complete (c.takeError .invalidCode)) htook.frame
    · obtain ⟨c, hrun, hc⟩ := hshort hlt hend
      rw [hc hinv.cleared.bitsBounded] at hrun
      exact (exec_decode_of_raise hslot hs hrun).trans rfl

end Sys2Proof.Machine
end

section
/-! SUPPORT. No rule reads an entry never written (70_reset_and_hazards.md R302, 93_implementation_defined.md U1): what the tables of a
built slot hold, which entries each piece of a command reads, and what it leaves written. At the end the settled statement. -/

namespace Sys2Proof.Machine

/-! ### The tables of a valid slot -/

/-- The number of symbols of the lengths below `l`, by the counts of a slot. -/
def Tree.countBelow (t : Tree) (l : Nat) : Nat := ((List.range l).tail.map fun k => ((t.count.read k).getD 0).toNat).sum

theorem Tree.countBelow_succ (t : Tree) {l : Nat} (hl : 1 ≤ l) :
    t.countBelow (l + 1) = t.countBelow l + ((t.count.read l).getD 0).toNat := by
  rw [Tree.countBelow, Tree.countBelow, List.range_succ, List.tail_append_of_ne_nil, List.map_append, List.sum_append]
  · simp
  · rw [Ne, List.range_eq_nil]
    omega

theorem Tree.countBelow_mono (t : Tree) {l m : Nat} (hl : 1 ≤ l) (h : l ≤ m) : t.countBelow l ≤ t.countBelow m := by
  obtain ⟨k, rfl⟩ := Nat.exists_eq_add_of_le h
  induction k with
  | zero => exact le_rfl
  | succ k ih =>
    rw [← Nat.add_assoc, t.countBelow_succ (by omega)]
    exact (ih (Nat.le_add_right l k)).trans (Nat.le_add_right _ _)

/-- The entries that decoding from the slot can read are written. -/
structure Tree.Readable (t : Tree) : Prop where
  count : ∀ l, 1 ≤ l → l ≤ 15 → (t.count.read l).isSome = true
  symbol : ∀ i, i < t.countBelow 16 → (t.trans.read i).isSome = true

theorem Engine.Written.readable {c : Engine} (h : c.Written) (sl : Slot) (hv : (c.tree sl).valid = true) : (c.tree sl).Readable :=
  ⟨h.counts sl hv, h.symbols sl hv⟩

theorem countBelow_builtTree (old : Tree) {ls : List (BitVec 4)} (hlen : ls.length ≤ 288) {l : Nat} (hl : l ≤ 16) :
    (builtTree old ls).countBelow l = baseIndex ls l := by
  have ht := canonical_builtTree old hlen
  induction l with
  | zero => rfl
  | succ l ih =>
    rcases Nat.eq_zero_or_pos l with rfl | hpos
    · rfl
    · obtain ⟨n, hn, hcount⟩ := Option.map_eq_some_iff.mp (ht.count l hpos (by omega))
      rw [Tree.countBelow_succ _ hpos, ih (by omega), baseIndex_succ hpos, hn, Option.getD_some, hcount]

/-- Every place below the number of symbols is the place of one. -/
theorem exists_symbol_of_place {ls : List (BitVec 4)} {l k : Nat} (hl : l ≤ 16) (hk : k < baseIndex ls l) :
    ∃ i, ls.getD i 0 ≠ 0 ∧ symbolPlace ls i = k := by
  induction l with
  | zero => exact absurd hk (Nat.not_lt_zero k)
  | succ l ih =>
    rcases Nat.eq_zero_or_pos l with rfl | hpos
    · exact absurd hk (Nat.not_lt_zero k)
    · by_cases hlt : k < baseIndex ls l
      · exact ih (by omega) hlt
      · rw [baseIndex_succ hpos] at hk
        obtain ⟨i, -, hi, hrank⟩ := exists_symbol_of_rank (ls := ls) (l := l) (r := k - baseIndex ls l) (by omega)
        refine ⟨i, fun hzero => ?_, by rw [symbolPlace, hi, hrank]; omega⟩
        rw [hzero] at hi
        exact absurd hi.symm (Nat.ne_of_gt hpos)

theorem readable_builtTree (old : Tree) {ls : List (BitVec 4)} (hlen : ls.length ≤ 288) : (builtTree old ls).Readable where
  count l hl hmax := by
    obtain ⟨n, hn, -⟩ := Option.map_eq_some_iff.mp ((canonical_builtTree old hlen).count l hl hmax)
    rw [hn]
    rfl
  symbol i hi := by
    rw [countBelow_builtTree old hlen le_rfl] at hi
    obtain ⟨j, hj, hplace⟩ := exists_symbol_of_place le_rfl hi
    rw [← hplace, (placedFrom_builtTree old ls).placed j (Nat.zero_le j) hj]
    rfl

/-! ### What a piece reads and leaves written -/

/-- A fault at a byte of the resident source slice that the memory argument does not give (log entry 7). -/
def Engine.SourceFault (c : Engine) (f : Fault) : Prop :=
  ∃ a, f = .unwrittenMem a ∧ c.latch.ctrl.srcPull = false ∧ (a - c.latch.srcBase).toNat < c.latch.srcLen.toNat

/-- Every entry a rule can read is written, and the source position is inside its slice. -/
structure Engine.Sound (c : Engine) : Prop where
  written : c.Written
  bits : c.BitsBounded

/-- Between `c` and `c'` the configuration stayed, and every entry of `LEN` that was written. -/
structure Engine.Retains (c c' : Engine) : Prop where
  latch : c'.latch = c.latch
  len : ∀ i, (c.len.read i).isSome = true → (c'.len.read i).isSome = true

theorem Engine.Retains.of_same {c c' : Engine} (hlatch : c'.latch = c.latch) (hlen : c'.len = c.len) : c.Retains c' :=
  ⟨hlatch, fun _ h => hlen ▸ h⟩

theorem Engine.Retains.trans {a b c : Engine} (h : a.Retains b) (h' : b.Retains c) : a.Retains c :=
  ⟨h'.latch.trans h.latch, fun i hi => h'.len i (h.len i hi)⟩

/-- From `c` the piece ends in a sound state that retains what `c` held, and its faults are in the source slice or among `F`. -/
structure Cmd.SoundFrom {α : Type} (F : Fault → Prop) (x : Cmd α) (c : Engine) : Prop where
  wp : x.wp (fun _ c' => c'.Sound ∧ c.Retains c') (fun _ c' => c'.Sound ∧ c.Retains c') c
  fault : ∀ {f c'}, x.run c = .error (.fault f) c' → F f ∨ c.SourceFault f

section
variable {F : Fault → Prop} {α β : Type} {x : Cmd α} {g : α → Cmd β} {c c' : Engine}

theorem Cmd.SoundFrom.bind (hx : x.SoundFrom F c) (hg : ∀ a c', x.run c = .ok a c' → c'.Sound → c.Retains c' → (g a).SoundFrom F c') :
    (x >>= g).SoundFrom F c where
  wp := Cmd.wp_bind {
    ok := fun a c' h => by
      obtain ⟨hc', hkeep⟩ := hx.wp.ok a c' h
      exact (hg a c' h hc' hkeep).wp.mono (fun _ _ h => ⟨h.1, hkeep.trans h.2⟩) fun _ _ h => ⟨h.1, hkeep.trans h.2⟩
    raise := hx.wp.raise }
  fault h := by
    rcases Cmd.bind_eq_error h with h | ⟨a, c', hxr, h⟩
    · exact hx.fault h
    · obtain ⟨hc', hkeep⟩ := hx.wp.ok a c' hxr
      have hf := (hg a c' hxr hc' hkeep).fault h
      rwa [Engine.SourceFault, hkeep.latch] at hf

theorem Cmd.SoundFrom.get_bind {k : Engine → Cmd α} (hk : (k c).SoundFrom F c) : (get >>= k).SoundFrom F c where
  wp := Cmd.wp_get_bind hk.wp
  fault h := hk.fault h

theorem Cmd.SoundFrom.map (hx : x.SoundFrom F c) (k : α → β) : (k <$> x).SoundFrom F c := by
  rw [map_eq_pure_bind]
  exact hx.bind fun a c' _ hc' _ => ⟨Cmd.wp_pure ⟨hc', .of_same rfl rfl⟩, fun h => by cases h⟩

theorem soundFrom_pure (hc : c.Sound) (a : α) : (pure a : Cmd α).SoundFrom F c :=
  ⟨Cmd.wp_pure ⟨hc, .of_same rfl rfl⟩, fun h => by cases h⟩

theorem soundFrom_raise (hc : c.Sound) (e : Err) : (raise e : Cmd α).SoundFrom F c :=
  ⟨Cmd.wp_raise ⟨hc, .of_same rfl rfl⟩, fun h => by cases h⟩

theorem soundFrom_require (hc : c.Sound) (ok : Bool) (e : Err) : (require ok e).SoundFrom F c := by
  unfold require
  split
  · exact soundFrom_pure hc ()
  · exact soundFrom_raise hc e

theorem soundFrom_modify {m : Engine → Engine} (hm : (m c).Sound) (hkeep : c.Retains (m c)) : (modify m : Cmd PUnit).SoundFrom F c :=
  ⟨Cmd.wp_modify ⟨hm, hkeep⟩, fun h => by cases h⟩

/-- A piece of which the end is known. -/
theorem soundFrom_of_run {a : α} (hrun : x.run c = .ok a c') (hc' : c'.Sound) (hk : c.Retains c') : x.SoundFrom F c where
  wp := (Cmd.wp_of_ok hrun).mpr ⟨hc', hk⟩
  fault h := by
    rw [hrun] at h
    cases h

/-- A piece that goes on from a state that retains what `c` held. -/
theorem Cmd.SoundFrom.of_run_eq {y : Cmd α} (hy : y.SoundFrom F c') (hk : c.Retains c') (hrun : x.run c = y.run c') : x.SoundFrom F c where
  wp := (hy.wp.mono (fun _ _ h => ⟨h.1, hk.trans h.2⟩) fun _ _ h => ⟨h.1, hk.trans h.2⟩).congr hrun
  fault h := by
    have hf := hy.fault (hrun ▸ h)
    rwa [Engine.SourceFault, hk.latch] at hf

/-- What is written does not depend on the bit reader, `LEN`, the sequencer's registers, the ports and the registers of the host. -/
theorem Engine.Written.of_same {c c' : Engine} (h : c.Written) (hsame : c' = { c' with
      lt := c.lt, dt := c.dt, ct := c.ct, ring := c.ring, ringIdx := c.ringIdx, ringFill := c.ringFill, dstPos := c.dstPos
      latch := c.latch, mem := c.mem, platform := c.platform }) : c'.Written := by
  have htree (sl : Slot) : c'.tree sl = c.tree sl := by
    rw [hsame]
    cases sl <;> rfl
  have hring (d : Nat) : c'.ring.read (c'.ringPlace d) = c.ring.read (c.ringPlace d) := by
    rw [hsame]
    rfl
  exact {
    counts := fun sl => by rw [htree]; exact h.counts sl
    symbols := fun sl => by rw [htree]; exact h.symbols sl
    ring := fun d h1 hd => by
      rw [hring]
      refine h.ring d h1 ?_
      rw [hsame] at hd
      exact hd
    dst := by
      rw [hsame]
      exact h.dst }

/-- A piece that keeps to the bit reader. -/
theorem Cmd.Quiet.soundFrom (hx : x.Quiet) (hframe : ∀ c, BitFrame c (x.after c)) (hc : c.Sound)
    (hfault : ∀ {f c'}, x.run c = .error (.fault f) c' → F f ∨ c.SourceFault f) : x.SoundFrom F c where
  wp := by
    have hend {c' : Engine} (h : x.after c = c') (hq : c.Quiet c') : c'.Sound ∧ c.Retains c' := by
      have hf := hframe c
      rw [h] at hf
      refine ⟨⟨hc.written.of_same ?_, hq.bits hc.bits⟩, .of_same ?_ ?_⟩
      · rw [hf]
      · rw [hf]
      · rw [hf]
    exact ⟨fun _ _ h => hend (Cmd.after_of_ok h) ((hx.wp c).ok _ _ h),
      fun _ _ h => hend (Cmd.after_of_error h) ((hx.wp c).raise _ _ h).2⟩
  fault := hfault
end

/-! ### The bit reader and the Huffman engine -/

section
variable {F : Fault → Prop} {c c' : Engine} {f : Fault}

theorem pullByte_faultless : pullByte.run c ≠ .error (.fault f) c' := by
  rw [pullByte_run]
  rcases c.ports.pullQ with _ | ⟨_ | _, _⟩
  · exact fun h => by cases h
  · dsimp only
    split <;> exact fun h => by cases h
  · exact fun h => by cases h

theorem memRead_eq_fault {a : Addr} (h : (memRead a).run c = .error (.fault f) c') :
    f = .unwrittenMem a ∧ c.platform.backs a = true ∧ c.mem.read a.toNat = none := by
  rw [memRead_run] at h
  by_cases hb : c.platform.backs a = true
  · rw [if_pos hb] at h
    cases hm : c.mem.read a.toNat with
    | none =>
      rw [hm] at h
      cases h
      exact ⟨rfl, hb, rfl⟩
    | some b =>
      rw [hm] at h
      cases h
  · rw [if_neg hb] at h
    cases h

theorem fetchSourceByte_fault (hc : c.BitsBounded) (h : fetchSourceByte.run c = .error (.fault f) c') : c.SourceFault f := by
  rw [fetchSourceByte_run] at h
  cases hpull : c.latch.ctrl.srcPull with
  | true =>
    rw [if_pos hpull] at h
    cases hrun : pullByte.run c with
    | ok b c₁ =>
      rw [hrun] at h
      cases h
    | error e c₁ =>
      rw [hrun] at h
      cases h
      exact absurd hrun pullByte_faultless
  | false =>
    rw [if_neg (by rw [hpull]; decide), residentByte_run] at h
    by_cases hend : c.srcPos = c.latch.srcLen
    · rw [if_pos hend] at h
      cases h
    · rw [if_neg hend] at h
      cases hrun : (memRead (c.latch.srcBase + c.srcPos)).run c with
      | ok b c₁ =>
        rw [hrun] at h
        cases h
      | error e c₁ =>
        rw [hrun] at h
        cases h
        refine ⟨_, (memRead_eq_fault hrun).1, hpull, ?_⟩
        have hle := hc.srcPos_le hpull
        have hne : c.srcPos.toNat ≠ c.latch.srcLen.toNat := fun h => hend (BitVec.eq_of_toNat_eq h)
        rw [add_sub_cancel_left]
        omega

theorem soundFrom_getBit (hc : c.Sound) : getBit.SoundFrom F c := by
  refine quiet_getBit.soundFrom getBit_frame hc fun {f c'} h => ?_
  rw [getBit_run, refill_run] at h
  by_cases h0 : c.bitcnt = 0
  · rw [if_pos h0] at h
    cases hrun : fetchSourceByte.run c with
    | ok b c₁ =>
      rw [hrun] at h
      cases h
    | error e c₁ =>
      rw [hrun] at h
      cases h
      exact .inr (fetchSourceByte_fault hc.bits hrun)
  · rw [if_neg h0] at h
    cases h

theorem soundFrom_getBitsLoop (k i : Nat) (v : Word) (hc : c.Sound) : (getBitsLoop k i v).SoundFrom F c := by
  induction k generalizing i v c with
  | zero => exact soundFrom_pure hc v
  | succ k ih => exact (soundFrom_getBit hc).bind fun _ _ _ hc _ => ih _ _ hc

theorem soundFrom_getBits (n : Nat) (hc : c.Sound) : (getBits n).SoundFrom F c := soundFrom_getBitsLoop n 0 0 hc

theorem soundFrom_alignBits (hc : c.Sound) : alignBits.SoundFrom F c :=
  quiet_alignBits.soundFrom (fun _ => rfl) hc fun h => by cases h

/-- A table entry that is written. -/
theorem soundFrom_treeEntry {sl : Slot} {table : Cells (BitVec 9)} {i : Nat} (hi : (table.read i).isSome = true) (hc : c.Sound) :
    (treeEntry sl table i).SoundFrom F c := by
  obtain ⟨v, hv⟩ := Option.isSome_iff_exists.mp hi
  rw [treeEntry, hv]
  exact soundFrom_pure hc v

/-- Decoding reads counts of lengths up to 15 and places below the number of symbols. -/
theorem soundFrom_decodeLoop {sl : Slot} {t : Tree} (ht : t.Readable) (k l code first : Nat) (hl : 1 ≤ l) (hk : l + k = 16)
    (hc : c.Sound) : (decodeLoop sl t k l code first (t.countBelow l)).SoundFrom F c := by
  induction k generalizing l code first c with
  | zero => exact soundFrom_raise hc .invalidCode
  | succ k ih =>
    refine (soundFrom_getBit hc).bind fun b c₁ _ hc₁ _ => ?_
    have hcount := ht.count l hl (by omega)
    refine (soundFrom_treeEntry hcount hc₁).bind fun n c₂ hn hc₂ _ => ?_
    obtain ⟨v, hv⟩ := Option.isSome_iff_exists.mp hcount
    rw [treeEntry_run, hv] at hn
    cases hn
    have hsucc := t.countBelow_succ hl
    rw [hv, Option.getD_some] at hsucc
    show (if _ then _ else _ : Cmd (BitVec 9)).SoundFrom F c₁
    split
    · have hmono := t.countBelow_mono (l := l + 1) (m := 16) (by omega) (by omega)
      exact soundFrom_treeEntry (ht.symbol _ (by omega)) hc₂
    · rw [← hsucc]
      exact ih (l + 1) _ _ (by omega) (by omega) hc₂

theorem soundFrom_decodeSymbol (sl : Slot) (hc : c.Sound) : (decodeSymbol sl).SoundFrom F c := by
  refine .get_bind ?_
  cases hv : (c.tree sl).valid with
  | false =>
    refine (soundFrom_require hc _ _).bind fun _ c' h _ _ => ?_
    cases h
  | true =>
    refine (soundFrom_require hc _ _).bind fun _ c' h _ _ => ?_
    cases h
    exact soundFrom_decodeLoop (hc.written.readable sl hv) 15 1 0 0 le_rfl rfl hc

end

/-! ### The slots and `LEN` -/

section
variable {F : Fault → Prop} {c c' : Engine} {f : Fault}

theorem Engine.Sound.setTree (hc : c.Sound) (sl : Slot) {t : Tree} (ht : t.valid = true → t.Readable) : (c.setTree sl t).Sound where
  bits := by
    have hb := hc.bits
    cases sl <;> exact { hb with }
  written := by
    have hread (sl' : Slot) (hv : ((c.setTree sl t).tree sl').valid = true) : ((c.setTree sl t).tree sl').Readable := by
      by_cases h : sl' = sl
      · subst h
        rw [c.tree_setTree_same sl' t] at hv ⊢
        exact ht hv
      · rw [c.tree_setTree_other sl sl' t h] at hv ⊢
        exact hc.written.readable sl' hv
    have hw := hc.written
    refine { counts := fun sl' hv => (hread sl' hv).count, symbols := fun sl' hv => (hread sl' hv).symbol, ring := ?_, dst := ?_ }
    · cases sl <;> exact hw.ring
    · cases sl <;> exact hw.dst

theorem Engine.retains_setTree (c : Engine) (sl : Slot) (t : Tree) : c.Retains (c.setTree sl t) := by
  cases sl <;> exact .of_same rfl rfl

theorem soundFrom_buildTree (sl : Slot) {ls : List (BitVec 4)} (hlen : ls.length ≤ 288) (hc : c.Sound) :
    (buildTree sl ls).SoundFrom F c := by
  have hrun := buildTree_run sl ls c
  by_cases hover : overSubscribed ls = true
  · rw [if_pos hover] at hrun
    refine ⟨(Cmd.wp_of_raise hrun).mpr ⟨hc.setTree sl nofun, c.retains_setTree sl _⟩, fun h => ?_⟩
    rw [hrun] at h
    cases h
  · rw [if_neg hover] at hrun
    refine ⟨(Cmd.wp_of_ok hrun).mpr ⟨hc.setTree sl fun _ => readable_builtTree _ hlen, c.retains_setTree sl _⟩, fun h => ?_⟩
    rw [hrun] at h
    cases h

theorem soundFrom_loadFixed (hc : c.Sound) : loadFixed.SoundFrom F c :=
  (soundFrom_buildTree .lt length_fixedLt.le hc).bind fun _ _ _ hc _ => soundFrom_buildTree .dt (by decide) hc

theorem Engine.Sound.withLen (hc : c.Sound) (len : Cells (BitVec 4)) : ({ c with len := len } : Engine).Sound :=
  ⟨hc.written.of_same rfl, { hc.bits with }⟩

/-- A piece that raises the written entries of `LEN` and does nothing else. -/
theorem soundFrom_of_len {α : Type} {x : Cmd α} {a : α} {len : Cells (BitVec 4)} (hx : x.run c = .ok a { c with len := len })
    (hlen : ∀ i, (c.len.read i).isSome = true → (len.read i).isSome = true) (hc : c.Sound) : x.SoundFrom F c where
  wp := (Cmd.wp_of_ok hx).mpr ⟨hc.withLen len, rfl, hlen⟩
  fault h := by
    rw [hx] at h
    cases h

/-- What `fillLens` leaves: the value at its `k` places, the other entries as they were. -/
theorem fillLens_run (v : BitVec 4) (i k : Nat) (c : Engine) : ∃ len, (fillLens v i k).run c = .ok () { c with len := len } ∧
    ∀ j, len.read j = if i ≤ j ∧ j < i + k then some v else c.len.read j := by
  induction k generalizing i c with
  | zero => exact ⟨c.len, rfl, fun j => (if_neg (by omega)).symm⟩
  | succ k ih =>
    obtain ⟨len, hrun, hlen⟩ := ih (i + 1) { c with len := c.len.write i v }
    refine ⟨len, hrun, fun j => ?_⟩
    rw [hlen, Cells.read_write]
    split
    · rw [if_pos (by omega)]
    · split
      · rw [if_pos (by omega)]
      · rw [if_neg (by omega)]

theorem soundFrom_lenWrite (i : Nat) (v : BitVec 4) (hc : c.Sound) : (lenWrite i v).SoundFrom F c := by
  refine soundFrom_of_len (lenWrite_run i v c) (fun j hj => ?_) hc
  rw [Cells.read_write]
  split
  · rfl
  · exact hj

theorem soundFrom_fillLens (v : BitVec 4) (i k : Nat) (hc : c.Sound) : (fillLens v i k).SoundFrom F c := by
  obtain ⟨len, hrun, hlen⟩ := fillLens_run v i k c
  refine soundFrom_of_len hrun (fun j hj => ?_) hc
  rw [hlen]
  split
  · rfl
  · exact hj

theorem soundFrom_readCodeLens (places : List Nat) (hc : c.Sound) : (readCodeLens places).SoundFrom F c := by
  induction places generalizing c with
  | nil => exact soundFrom_pure hc ()
  | cons p rest ih =>
    exact (soundFrom_getBits 3 hc).bind fun _ _ _ hc _ => (soundFrom_lenWrite p _ hc).bind fun _ _ _ hc _ => ih hc

/-- The first `n` entries of `LEN` are written. -/
def Engine.LensWritten (c : Engine) (n : Nat) : Prop := ∀ i, i < n → (c.len.read i).isSome = true

theorem Engine.LensWritten.retained {n : Nat} (h : c.LensWritten n) (hg : c.Retains c') : c'.LensWritten n :=
  fun i hi => hg.len i (h i hi)

theorem Engine.LensWritten.mono {m n : Nat} (h : c.LensWritten n) (hle : m ≤ n) : c.LensWritten m :=
  fun i hi => h i (hi.trans_le hle)

/-- Entries that are written are read, and nothing changes. -/
theorem readLens_run_of_isSome {base num : Nat} (h : ∀ k, k < num → (c.len.read (base + k)).isSome = true) :
    ∃ ls, ls.length = num ∧ (readLens base num).run c = .ok ls c := by
  refine ⟨(List.range num).map fun k => (c.len.read (base + k)).getD 0, by simp, readLens_run_of_written (by simp) fun k hk => ?_⟩
  obtain ⟨v, hv⟩ := Option.isSome_iff_exists.mp (h k hk)
  simp [hk, hv]

/-- A fault of reading lengths names the first entry that was never written. -/
theorem readLens_eq_fault {base num : Nat} (h : (readLens base num).run c = .error (.fault f) c') :
    ∃ j, j < num ∧ f = .unwrittenLen (base + j) ∧ c.len.read (base + j) = none := by
  by_cases hall : ∀ k, k < num → (c.len.read (base + k)).isSome = true
  · obtain ⟨ls, -, hrun⟩ := readLens_run_of_isSome hall
    rw [hrun] at h
    cases h
  · have hex : ∃ k, k < num ∧ c.len.read (base + k) = none := by simpa using hall
    obtain ⟨hj, hnone⟩ := Nat.find_spec hex
    have hbefore (k : Nat) (hk : k < Nat.find hex) : (c.len.read (base + k)).isSome = true := by
      rw [Option.isSome_iff_ne_none]
      exact fun hn => Nat.find_min hex hk ⟨hk.trans hj, hn⟩
    rw [readLens_run_of_unwritten hj hbefore hnone] at h
    cases h
    exact ⟨_, hj, rfl, hnone⟩

theorem soundFrom_readLens {base num : Nat} (hl : c.LensWritten (base + num)) (hc : c.Sound) : (readLens base num).SoundFrom F c := by
  obtain ⟨ls, -, hrun⟩ := readLens_run_of_isSome (c := c) (base := base) (num := num) fun k hk => hl _ (by omega)
  exact soundFrom_of_len hrun (fun _ h => h) hc

theorem readLens_eq_ok {base num : Nat} {ls : List (BitVec 4)} (h : (readLens base num).run c = .ok ls c') :
    c' = c ∧ ls.length = num ∧ ∀ k, k < num → c.len.read (base + k) = ls[k]? := by
  induction num generalizing base ls c' with
  | zero =>
    cases h
    exact ⟨rfl, rfl, nofun⟩
  | succ num ih =>
    obtain ⟨v, c₁, hv, h⟩ := Cmd.bind_eq_ok h
    obtain ⟨rest, c₂, hrest, h⟩ := Cmd.bind_eq_ok h
    cases h
    rw [lenRead_run] at hv
    cases hread : c.len.read base with
    | none =>
      rw [hread] at hv
      cases hv
    | some w =>
      rw [hread] at hv
      cases hv
      obtain ⟨rfl, hlen, hall⟩ := ih hrest
      refine ⟨rfl, congrArg Nat.succ hlen, fun k hk => ?_⟩
      cases k with
      | zero => exact hread
      | succ k =>
        rw [show base + (k + 1) = base + 1 + k by omega]
        exact hall k (Nat.lt_of_succ_lt_succ hk)

theorem soundFrom_repeatCode (sym : Nat) {num : Nat} (hl : c.LensWritten num) (hc : c.Sound) : (repeatCode sym num).SoundFrom F c := by
  unfold repeatCode
  split
  · split
    · exact soundFrom_raise hc _
    · have hread : (lenRead (num - 1)).SoundFrom F c := by
        obtain ⟨v, hv⟩ := Option.isSome_iff_exists.mp (hl (num - 1) (by omega))
        refine soundFrom_of_len (a := v) (len := c.len) ?_ (fun _ h => h) hc
        rw [lenRead_run, hv]
      exact hread.bind fun _ _ _ hc _ => (soundFrom_getBits 2 hc).bind fun _ _ _ hc _ => soundFrom_pure hc _
  · split
    · exact (soundFrom_getBits 3 hc).bind fun _ _ _ hc _ => soundFrom_pure hc _
    · exact (soundFrom_getBits 7 hc).bind fun _ _ _ hc _ => soundFrom_pure hc _

theorem require_eq_ok_state {ok : Bool} {e : Err} (h : (require ok e).run c = .ok () c') : c' = c := by
  cases ok <;> cases h
  rfl

theorem require_eq_ok {ok : Bool} {e : Err} (h : (require ok e).run c = .ok () c') : ok = true := by
  cases ok with
  | true => rfl
  | false => cases h

/-- A repeat code stands for three lengths or more. -/
theorem repeatCode_pos {sym num : Nat} {r : BitVec 4 × Nat} (h : (repeatCode sym num).run c = .ok r c') : 3 ≤ r.2 := by
  have hfield {n k : Nat} {c₀ : Engine} {v : BitVec 4} (hk : 3 ≤ k)
      (h : (getBits n >>= fun r => pure (v, k + r.toNat) : Cmd (BitVec 4 × Nat)).run c₀ = .ok r c') : 3 ≤ r.2 := by
    obtain ⟨w, c₁, -, h⟩ := Cmd.bind_eq_ok h
    cases h
    exact Nat.le_add_right_of_le hk
  unfold repeatCode at h
  split at h
  · split at h
    · cases h
    · obtain ⟨v, c₁, -, h⟩ := Cmd.bind_eq_ok h
      exact hfield le_rfl h
  · split at h
    · exact hfield le_rfl h
    · exact hfield (by omega) h

/-- Behind the lengths of a dynamic header its `LEN` entries are written. -/
theorem soundFrom_readLengths_bind {α : Type} {g : Unit → Cmd α} {total : Nat} (k : Nat) {num : Nat} (hk : total ≤ num + k)
    (hl : c.LensWritten num) (hc : c.Sound) (hg : ∀ c', c'.Sound → c'.LensWritten total → (g ()).SoundFrom F c') :
    (readLengths total k num >>= g).SoundFrom F c := by
  induction k generalizing num c with
  | zero => exact hg c hc (hl.mono hk)
  | succ k ih =>
    unfold readLengths
    split
    · simp only [bind_assoc]
      refine (soundFrom_decodeSymbol .ct hc).bind fun sym c₁ _ hc₁ hk₁ => ?_
      have hl₁ := hl.retained hk₁
      split
      · simp only [bind_assoc]
        refine (soundFrom_lenWrite num _ hc₁).bind fun _ c₂ hrun hc₂ hk₂ => ih (by omega) (fun i hi => ?_) hc₂
        cases hrun
        show (Cells.read (Cells.write _ _ _) i).isSome = true
        rw [Cells.read_write]
        split
        · rfl
        · exact hl₁ i (by omega)
      · simp only [bind_assoc]
        refine (soundFrom_repeatCode _ hl₁ hc₁).bind fun r c₂ hr hc₂ hk₂ => ?_
        refine (soundFrom_require hc₂ _ _).bind fun _ c₃ hrun hc₃ hk₃ => ?_
        have hl₃ := (hl₁.retained hk₂).retained hk₃
        obtain ⟨len, hfill, hlen⟩ := fillLens_run r.1 num r.2 c₃
        refine (soundFrom_fillLens _ _ _ hc₃).bind fun _ c₄ hrun₄ hc₄ _ => ih (num := num + r.2) ?_ (fun i hi => ?_) hc₄
        · have := repeatCode_pos hr
          omega
        · rw [hfill] at hrun₄
          cases hrun₄
          show (len.read i).isSome = true
          rw [hlen]
          split
          · rfl
          · exact hl₃ i (by omega)
    · exact hg c hc (hl.mono (by omega))

/-- Reading the dynamic header reads only entries of `LEN` it wrote. -/
theorem soundFrom_dynamicHeader (hc : c.Sound) : dynamicHeader.SoundFrom F c := by
  refine (soundFrom_getBits 5 hc).bind fun a c₁ _ hc₁ _ => (soundFrom_getBits 5 hc₁).bind fun b c₂ _ hc₂ _ => ?_
  refine (soundFrom_getBits 4 hc₂).bind fun d c₃ _ hc₃ _ => (soundFrom_require hc₃ _ _).bind fun _ c₄ hok hc₄ _ => ?_
  obtain ⟨hlit, hdist⟩ : a.toNat + 257 ≤ 286 ∧ b.toNat + 1 ≤ 30 := by
    simpa using require_eq_ok hok
  obtain ⟨len, hfill, hlen⟩ := fillLens_run 0 0 19 c₄
  refine (soundFrom_fillLens 0 0 19 hc₄).bind fun _ c₅ hrun₅ hc₅ _ => ?_
  have hl₅ : c₅.LensWritten 19 := fun i hi => by
    rw [hfill] at hrun₅
    cases hrun₅
    show (len.read i).isSome = true
    rw [hlen, if_pos (by omega)]
    rfl
  refine (soundFrom_readCodeLens _ hc₅).bind fun _ c₆ _ hc₆ hk₆ => ?_
  refine (soundFrom_readLens (hl₅.retained hk₆) hc₆).bind fun cl c₇ hcl hc₇ _ => ?_
  refine (soundFrom_buildTree .ct (by rw [(readLens_eq_ok hcl).2.1]; omega) hc₇).bind fun _ c₈ _ hc₈ _ => ?_
  refine soundFrom_readLengths_bind _ (Nat.le_add_left _ 0) (nofun) hc₈ fun c₉ hc₉ hl₉ => ?_
  have hfront : 0 + (a.toNat + 257) ≤ a.toNat + 257 + (b.toNat + 1) :=
    (Nat.zero_add _).trans_le (Nat.le_add_right _ _)
  refine (soundFrom_readLens (hl₉.mono hfront) hc₉).bind fun ll d₁ hll hd₁ hk₁ => ?_
  have hlen : ll.length ≤ 288 := by
    have := (readLens_eq_ok hll).2.1
    omega
  refine (soundFrom_buildTree .lt hlen hd₁).bind fun _ d₂ _ hd₂ hk₂ => ?_
  refine (soundFrom_readLens ((hl₉.retained hk₁).retained hk₂) hd₂).bind fun dl d₃ hdl hd₃ _ => ?_
  have hlen : dl.length ≤ 288 := by
    have := (readLens_eq_ok hdl).2.1
    omega
  exact soundFrom_buildTree .dt hlen hd₃

end

/-! ### History and the output sink -/

section
variable {F : Fault → Prop} {c c' : Engine} {f : Fault} {b : Byte} {n : Nat}

theorem Engine.Sound.of_same (hc : c.Sound) (hsame : c' = { c' with
    lt := c.lt, dt := c.dt, ct := c.ct, ring := c.ring, ringIdx := c.ringIdx, ringFill := c.ringFill, dstPos := c.dstPos
    latch := c.latch, mem := c.mem, platform := c.platform, bitacc := c.bitacc, bitcnt := c.bitcnt, srcPos := c.srcPos }) :
    c'.Sound := by
  have hb := hc.bits
  refine ⟨hc.written.of_same ?_, ?_⟩
  · rw [hsame]
  · rw [hsame]
    exact { hb with }

/-- A covered distance names a byte that a store holds, or the host's to give (43_window.md R193, R194). -/
theorem soundFrom_histRead {d : Nat} (hcov : c.covered d = true) (hc : c.Sound) : (histRead d).SoundFrom F c := by
  have hend {c' : Engine} (h : (histRead d).after c = c') : c'.Sound ∧ c.Retains c' := by
    obtain ⟨p, hp⟩ := histRead_after d c
    rw [← h, hp]
    exact ⟨hc.of_same rfl, .of_same rfl rfl⟩
  have hpos := (Engine.covered_bounds hcov).1
  refine ⟨⟨fun _ _ h => hend (Cmd.after_of_ok h), fun _ _ h => hend (Cmd.after_of_error h)⟩, fun {f c'} h => ?_⟩
  rw [histRead_run] at h
  split at h
  · rename_i hres
    rw [Bool.and_eq_true, decide_eq_true_eq] at hres
    obtain ⟨-, -, hnone⟩ := memRead_eq_fault h
    have hsome := (hc.written.dst hres.1 d hpos hres.2).2
    rw [hnone] at hsome
    cases hsome
  · split at h
    · rename_i hring
      rw [Bool.and_eq_true, decide_eq_true_eq, decide_eq_true_eq] at hring
      obtain ⟨v, hv⟩ := Option.isSome_iff_exists.mp (hc.written.ring d hpos hring.2)
      rw [ringRead_run, hv] at h
      cases h
    · rw [readDest_run] at h
      cases hq : c.ports.readDestQ <;> rw [hq] at h <;> cases h

theorem Engine.Written.ringWritten (hw : c.Written) (hi : c.Inv) (hcap : c.latch.ringCap ≠ 0) (b : Byte) : (c.ringWritten b).Written where
  counts sl := hw.counts sl
  symbols sl := hw.symbols sl
  dst := hw.dst
  ring d h1 hd := by
    obtain ⟨d, rfl⟩ := Nat.exists_eq_add_of_le' h1
    rw [c.toNat_ringWritten_ringFill] at hd
    rw [c.read_ringWritten b hcap (hi.ringIdx_lt hcap) (by omega)]
    split
    · rfl
    · exact hw.ring d (by omega) (by omega)

theorem Engine.Written.counted (hw : c.Written) (hroom : c.HasRoom (n + 1))
    (hbacks : c.latch.ctrl.dstRes = true → c.platform.backs (c.latch.dstBase + c.dstPos) = true) (b : Byte) : (c.counted b).Written where
  counts sl := hw.counts sl
  symbols sl := hw.symbols sl
  ring := hw.ring
  dst (hres : c.latch.ctrl.dstRes = true) d h1 hd := by
    obtain ⟨d, rfl⟩ := Nat.exists_eq_add_of_le' h1
    rw [c.toNat_counted_dstPos b hroom, if_pos hres] at hd
    rw [c.read_counted b hres (by omega)]
    have haddr : (c.counted b).latch.dstBase + (c.counted b).dstPos - BitVec.ofNat 32 (d + 1) =
        c.latch.dstBase + c.dstPos - BitVec.ofNat 32 d := by
      have hpos : (c.counted b).dstPos = c.dstPos + 1 := if_pos hres
      rw [hpos, c.counted_latch, BitVec.ofNat_add, ← add_assoc]
      exact add_sub_add_right_eq_sub _ _ _
    rw [haddr]
    rcases Nat.eq_zero_or_pos d with rfl | hpos
    · refine ⟨?_, rfl⟩
      show c.platform.backs _ = true
      rw [show c.latch.dstBase + c.dstPos - BitVec.ofNat 32 0 = c.latch.dstBase + c.dstPos from sub_zero _]
      exact hbacks hres
    · rw [if_neg (by omega)]
      exact hw.dst hres d hpos (by omega)

/-- An emitted byte is written in every store that covers it. -/
theorem Engine.Written.emitted (hw : c.Written) (hi : c.Inv) (hroom : c.HasRoom (n + 1))
    (hbacks : c.latch.ctrl.dstRes = true → c.platform.backs (c.latch.dstBase + c.dstPos) = true) (b : Byte) : (c.emitted b).Written := by
  rw [c.emitted_eq]
  split
  · exact hw.counted hroom hbacks b
  · exact (hw.counted hroom hbacks b).ringWritten (hi.counted hroom b) ‹_› b

theorem soundFrom_emit (hi : c.Inv) (hroom : c.HasRoom (n + 1)) (b : Byte) (hc : c.Sound) : (emit b).SoundFrom F c := by
  by_cases hbacks : c.latch.ctrl.dstRes = true → c.platform.backs (c.latch.dstBase + c.dstPos) = true
  · refine ⟨emit_wp ⟨⟨hc.written.emitted hi hroom hbacks b, (hi.emitted hroom b).bitsBounded⟩, .of_same rfl rfl⟩, fun h => ?_⟩
    by_cases hready : c.latch.ctrl.dstPush = true → c.ports.pushReady ≠ 0
    · rw [emit_run_of_ready hbacks hready] at h
      cases h
    · obtain ⟨hpush, hzero⟩ : c.latch.ctrl.dstPush = true ∧ c.ports.pushReady = 0 := by simpa using hready
      rw [emit_run_of_not_accepted hpush hzero hbacks] at h
      cases h
  · obtain ⟨hres, hno⟩ := Classical.not_imp.mp hbacks
    have hrun := emit_run_of_unbacked (b := b) hres (Bool.eq_false_of_not_eq_true hno)
    refine ⟨Cmd.wp_of_stop hrun nofun, fun h => ?_⟩
    rw [hrun] at h
    cases h

end

/-! ### The actions of the sequencer -/

section
variable {F : Fault → Prop} {c c' : Engine} {n : Nat}

/-- A change of the registers of the sequencer. -/
theorem soundFrom_note (m : Engine → Engine) (hsame : m c = { m c with
    lt := c.lt, dt := c.dt, ct := c.ct, ring := c.ring, ringIdx := c.ringIdx, ringFill := c.ringFill, dstPos := c.dstPos
    latch := c.latch, mem := c.mem, platform := c.platform, bitacc := c.bitacc, bitcnt := c.bitcnt, srcPos := c.srcPos
    len := c.len }) (hc : c.Sound) : (modify m : Cmd PUnit).SoundFrom F c := by
  refine soundFrom_modify (hc.of_same ?_) (.of_same ?_ ?_)
  · rw [hsame]
  · rw [hsame]
  · rw [hsame]

theorem soundFrom_storedHeader (hc : c.Sound) : storedHeader.SoundFrom F c :=
  (soundFrom_alignBits hc).bind fun _ _ _ hc _ => (soundFrom_getBits 16 hc).bind fun _ _ _ hc _ =>
    (soundFrom_getBits 16 hc).bind fun _ _ _ hc _ => (soundFrom_require hc _ _).bind fun _ _ _ hc _ => soundFrom_note _ rfl hc

theorem soundFrom_readHeader (hc : c.Sound) : readHeader.SoundFrom F c := by
  refine (soundFrom_getBits 1 hc).bind fun f c₁ _ hc₁ _ => (soundFrom_note _ rfl hc₁).bind fun _ c₂ _ hc₂ _ => ?_
  refine (soundFrom_getBits 2 hc₂).bind fun t c₃ _ hc₃ _ => (soundFrom_note _ rfl hc₃).bind fun _ c₄ _ hc₄ _ => ?_
  split
  · exact soundFrom_storedHeader hc₄
  · exact (soundFrom_loadFixed hc₄).bind fun _ _ _ hc _ => soundFrom_note _ rfl hc
  · exact (soundFrom_dynamicHeader hc₄).bind fun _ _ _ hc _ => soundFrom_note _ rfl hc
  · exact soundFrom_raise hc₄ _

theorem soundFrom_endOfBlock (hc : c.Sound) : endOfBlock.SoundFrom F c := soundFrom_note _ rfl hc

theorem soundFrom_matchStep (i : Nat) (hc : c.Sound) : (matchStep i).SoundFrom F c := by
  refine (soundFrom_getBits _ hc).bind fun le c₁ _ hc₁ _ => (soundFrom_decodeSymbol .dt hc₁).bind fun ds c₂ _ hc₂ _ => ?_
  refine (soundFrom_require hc₂ _ _).bind fun _ c₃ _ hc₃ _ => (soundFrom_getBits _ hc₃).bind fun de c₄ _ hc₄ _ => ?_
  exact .get_bind ((soundFrom_require hc₄ _ _).bind fun _ c₅ _ hc₅ _ => soundFrom_note _ rfl hc₅)

theorem soundFrom_getBytes4 (hc : c.Sound) : getBytes4.SoundFrom F c :=
  (soundFrom_getBits 8 hc).bind fun _ _ _ hc _ => (soundFrom_getBits 8 hc).bind fun _ _ _ hc _ =>
    (soundFrom_getBits 8 hc).bind fun _ _ _ hc _ => (soundFrom_getBits 8 hc).bind fun _ _ _ hc _ => soundFrom_pure hc _

theorem soundFrom_readTrailer (hc : c.Sound) : readTrailer.SoundFrom F c := by
  refine (soundFrom_alignBits hc).bind fun _ c₁ _ hc₁ _ => .get_bind ?_
  split
  · refine (soundFrom_getBytes4 hc₁).bind fun (b0, b1, b2, b3) c₂ _ hc₂ _ => .get_bind ?_
    exact (soundFrom_require hc₂ _ _).bind fun _ _ _ hc _ => soundFrom_note _ rfl hc
  · refine (soundFrom_getBytes4 hc₁).bind fun (b0, b1, b2, b3) c₂ _ hc₂ _ => (soundFrom_getBytes4 hc₂).bind fun _ c₃ _ hc₃ _ => ?_
    exact .get_bind ((soundFrom_require hc₃ _ _).bind fun _ _ _ hc _ => soundFrom_note _ rfl hc)

/-- A quiet piece keeps what the loop asks for. -/
theorem Engine.InLoop.of_run {α : Type} {h : Prop} {x : Cmd α} {a : α} (hl : c.InLoop h n) (hx : x.Quiet) (hrun : x.run c = .ok a c') :
    c'.InLoop h n ∧ c'.pstate = c.pstate := by
  have hq := (hx.wp c).ok a c' hrun
  exact ⟨hl.quiet hq, hq.pstate⟩

/-- Inside the loop, but for the trailer, a byte is emitted from a boundary. -/
theorem Engine.InLoop.soundFrom_emit {h : Prop} (hl : c.InLoop h (n + 1)) (hp : c.pstate ≠ .trailer) (b : Byte) (hc : c.Sound) :
    (emit b).SoundFrom F c := Machine.soundFrom_emit (hl.exit hp).inv hl.room b hc

theorem soundFrom_storedStep {h : Prop} (hl : c.InLoop h (n + 1)) (hp : c.pstate = .stored) (hc : c.Sound) :
    storedStep.SoundFrom F c := by
  refine .get_bind ?_
  split
  · exact (soundFrom_endOfBlock hc).bind fun _ _ _ hc _ => soundFrom_pure hc 0
  · refine (soundFrom_getBits 8 hc).bind fun b c₁ hrun hc₁ _ => ?_
    obtain ⟨hl₁, hp₁⟩ := hl.of_run (quiet_getBits 8) hrun
    refine (hl₁.soundFrom_emit (by rw [hp₁, hp]; decide) _ hc₁).bind fun _ c₂ _ hc₂ _ => ?_
    exact (soundFrom_note _ rfl hc₂).bind fun _ _ _ hc _ => soundFrom_pure hc 1

theorem soundFrom_huffStep {h : Prop} (hl : c.InLoop h (n + 1)) (hp : c.pstate = .huff) (hc : c.Sound) :
    huffStep.SoundFrom F c := by
  refine (soundFrom_decodeSymbol .lt hc).bind fun sym c₁ hrun hc₁ _ => ?_
  obtain ⟨hl₁, hp₁⟩ := hl.of_run (quiet_decodeSymbol .lt) hrun
  split
  · exact (hl₁.soundFrom_emit (by rw [hp₁, hp]; decide) _ hc₁).bind fun _ _ _ hc _ => soundFrom_pure hc 1
  · split
    · exact (soundFrom_endOfBlock hc₁).bind fun _ _ _ hc _ => soundFrom_pure hc 0
    · split
      · exact (soundFrom_matchStep _ hc₁).bind fun _ _ _ hc _ => soundFrom_pure hc 0
      · exact soundFrom_raise hc₁ _

theorem soundFrom_copyStep {h : Prop} (hl : c.InLoop h (n + 1)) (hp : c.pstate = .copy) (hc : c.Sound) :
    copyStep.SoundFrom F c := by
  refine .get_bind ?_
  split
  · exact (soundFrom_note _ rfl hc).bind fun _ _ _ hc _ => soundFrom_pure hc 0
  · have hne : c.pstate ≠ .trailer := by rw [hp]; decide
    obtain ⟨-, -, hcov⟩ := (hl.exit hne).inv.copy_dist hp
    refine (soundFrom_histRead hcov hc).bind fun b c₁ hrun hc₁ _ => ?_
    obtain ⟨hl₁, hp₁⟩ := hl.of_run (quiet_histRead _) hrun
    refine (hl₁.soundFrom_emit (by rw [hp₁]; exact hne) _ hc₁).bind fun _ c₂ _ hc₂ _ => ?_
    exact (soundFrom_note _ rfl hc₂).bind fun _ _ _ hc _ => soundFrom_pure hc 1

theorem soundFrom_stepOnce {h : Prop} (hl : c.InLoop h (n + 1)) (hc : c.Sound) : stepOnce.SoundFrom F c := by
  refine .get_bind ?_
  cases hp : c.pstate with
  | hdr => exact (soundFrom_readHeader hc).bind fun _ _ _ hc _ => soundFrom_pure hc 0
  | stored => exact soundFrom_storedStep hl hp hc
  | huff => exact soundFrom_huffStep hl hp hc
  | copy => exact soundFrom_copyStep hl hp hc
  | trailer => exact (soundFrom_readTrailer hc).bind fun _ _ _ hc _ => soundFrom_pure hc 0
  | idle | done | dataError | checksumError | sourceExhausted => exact soundFrom_pure hc 0

/-- The loop, its bound aside (log entry 13). -/
theorem soundFrom_stepLoop {h : Prop} {ecap passes produced : Nat} (hn : produced + n = ecap) (hl : c.InLoop h n) (hc : c.Sound) :
    (stepLoop ecap passes produced).SoundFrom (· = .loopBound) c := by
  induction passes generalizing produced n c with
  | zero => exact ⟨Cmd.wp_throw nofun, fun h => by cases h; exact .inl rfl⟩
  | succ k ih =>
    have hrun := stepLoop_succ_run ecap k produced c
    by_cases hend : c.pstate = .done ∨ produced = ecap
    · rw [if_pos hend] at hrun
      exact soundFrom_of_run hrun hc (.of_same rfl rfl)
    · rw [if_neg hend] at hrun
      obtain ⟨m, rfl⟩ := Nat.exists_eq_add_of_le' (show 1 ≤ n by omega)
      have hsound := soundFrom_stepOnce (F := (· = .loopBound)) hl hc
      cases hs : stepOnce.run c with
      | ok j c' =>
        obtain ⟨m', hm, hl'⟩ := (stepOnce_wp hl).ok j c' hs
        obtain ⟨hc', hk⟩ := hsound.wp.ok j c' hs
        rw [hs] at hrun
        exact (ih (by omega) hl' hc').of_run_eq hk hrun
      | error stop c' =>
        rw [hs] at hrun
        cases stop with
        | raise e =>
          obtain ⟨hc', hk⟩ := hsound.wp.raise e c' hs
          exact soundFrom_of_run hrun (hc'.of_same rfl) (hk.trans (.of_same rfl rfl))
        | fault f =>
          refine ⟨Cmd.wp_of_stop hrun nofun, fun h => ?_⟩
          rw [hrun] at h
          cases h
          exact hsound.fault hs
        | wait | refuse =>
          refine ⟨Cmd.wp_of_stop hrun nofun, fun h => ?_⟩
          rw [hrun] at h
          cases h

theorem soundFrom_copyLoop (d n : Nat) (hi : c.Inv) (hroom : c.HasRoom n) (hcov : c.covered d = true) (hc : c.Sound) :
    (copyLoop d n).SoundFrom F c := by
  induction n generalizing c with
  | zero => exact soundFrom_pure hc ()
  | succ n ih =>
    refine (soundFrom_histRead hcov hc).bind fun b c₁ hrun hc₁ _ => ?_
    have hq := ((quiet_histRead d).wp c).ok b c₁ hrun
    have hi₁ := hq.inv hi
    have hroom₁ := hroom.quiet hq
    refine (soundFrom_emit hi₁ hroom₁ b hc₁).bind fun _ c₂ hemit hc₂ _ => ?_
    have hread := ((silent_histRead d).after c).grows
    rw [Cmd.after_of_ok hrun] at hread
    have hgrows := emit_grows b (hroom₁.mono (Nat.le_add_left 1 n))
    rw [Cmd.after_of_ok hemit] at hgrows
    have hcov₂ := hgrows.covered hi₁ (hread.covered hi hcov)
    cases emit_eq_ok hemit
    exact ih (hi₁.emitted hroom₁ b) (hroom₁.emitted b) hcov₂ hc₂

theorem soundFrom_requireStream (hc : c.Sound) : requireStream.SoundFrom F c := .get_bind (soundFrom_require hc _ _)

end

/-! ### Every command -/

/-- The faults a command has but for the source slice: the loop's bound, and a `LEN` entry never written that `LENR` or `BUILD`
names (93_implementation_defined.md U1). -/
def LenFault (i : Instr) (len : Cells (BitVec 4)) (f : Fault) : Prop :=
  f = .loopBound ∨ ∃ idx, f = .unwrittenLen idx ∧ len.read idx = none ∧
    (i = .lenr (BitVec.ofNat 9 idx) ∨
      ∃ sl base num, i = .build sl base num ∧ base.toNat ≤ idx ∧ idx < base.toNat + num.toNat)

section
variable {F : Fault → Prop} {c : Engine}

theorem Cmd.SoundFrom.mono {α : Type} {G : Fault → Prop} {x : Cmd α} (hx : x.SoundFrom F c) (h : ∀ f, F f → G f) : x.SoundFrom G c :=
  ⟨hx.wp, fun hf => (hx.fault hf).imp_left (h _)⟩

theorem soundFrom_stepBody (cap : BitVec 26) (hi : c.Inv) (hc : c.Sound) : (stepBody cap).SoundFrom (· = .loopBound) c := by
  refine .get_bind ?_
  have hloop (halive : c.pstate.failed = false) :=
    soundFrom_stepLoop (passes := c.stepBound (c.budget cap)) (Nat.zero_add _)
      ((Engine.Boundary.mk (h := False) hi False.elim).inLoop halive (hi.hasRoom_budget cap)) hc
  cases hp : c.pstate with
  | done => exact soundFrom_pure hc _
  | dataError | checksumError | sourceExhausted => exact soundFrom_raise hc _
  | idle | hdr | stored | huff | copy | trailer => exact hloop (by rw [hp]; rfl)

theorem soundFrom_putBody (b : Byte) (hi : c.Inv) (hc : c.Sound) : (putBody b).SoundFrom F c := by
  refine .get_bind ((soundFrom_require hc _ _).bind fun _ c' hok _ _ => ?_)
  have hroom := require_eq_ok hok
  cases (require_eq_ok_state hok)
  refine (soundFrom_emit (n := 0) hi (fun hres => ?_) b hc).bind fun _ _ _ hc _ => soundFrom_pure hc _
  have hne : c.dstPos ≠ c.latch.dstLen := by simpa [hres] using hroom
  have hle := hi.dstPos_le hres
  bv_omega

theorem soundFrom_getBody (d : Nat) (hc : c.Sound) : (getBody d).SoundFrom F c := by
  refine .get_bind ((soundFrom_require hc _ _).bind fun _ c' hok _ _ => ?_)
  have hcov := require_eq_ok hok
  cases (require_eq_ok_state hok)
  exact (soundFrom_histRead hcov hc).bind fun _ _ _ hc _ => soundFrom_pure hc _

theorem soundFrom_copyBody (len : BitVec 9) (d : Nat) (hi : c.Inv) (hc : c.Sound) : (copyBody len d).SoundFrom F c := by
  refine .get_bind ((soundFrom_require hc _ _).bind fun _ c₁ hok hc₁ _ => (soundFrom_require hc₁ _ _).bind fun _ c₂ hok' _ _ => ?_)
  have hcov := require_eq_ok hok
  have hroom := require_eq_ok hok'
  cases (require_eq_ok_state hok)
  cases (require_eq_ok_state hok')
  refine (soundFrom_copyLoop d _ hi (hi.hasRoom fun hres => ?_) hcov hc).bind fun _ _ _ hc _ => soundFrom_pure hc _
  simpa [hres] using hroom

theorem soundFrom_preloadBody (b : Byte) (hi : c.Inv) (hc : c.Sound) : (preloadBody b).SoundFrom F c := by
  refine .get_bind ((soundFrom_require hc _ _).bind fun _ c' hok _ _ => ?_)
  have hcond := require_eq_ok hok
  cases (require_eq_ok_state hok)
  simp only [Bool.and_eq_true, decide_eq_true_eq] at hcond
  obtain ⟨⟨hcap, -⟩, -⟩ := hcond
  refine (soundFrom_of_run (ringWrite_run b c) ?_ (.of_same rfl rfl)).bind fun _ _ _ hc _ => soundFrom_pure hc _
  exact ⟨hc.written.ringWritten hi hcap b, (hi.ringWritten hcap b).bitsBounded⟩

theorem soundFrom_reportResult (hc : c.Sound) : reportResult.SoundFrom F c := .get_bind (soundFrom_pure hc _)

theorem soundFrom_lenrBody (idx : BitVec 9) (hc : c.Sound) : (bodyOf (.lenr idx)).SoundFrom (LenFault (.lenr idx) c.len) c := by
  have hread := lenRead_run idx.toNat c
  cases hv : c.len.read idx.toNat with
  | some v =>
    rw [hv] at hread
    exact (soundFrom_of_run hread hc (.of_same rfl rfl)).bind fun _ _ _ hc _ => soundFrom_pure hc _
  | none =>
    rw [hv] at hread
    have hrun : (bodyOf (.lenr idx)).run c = .error (.fault (.unwrittenLen idx.toNat)) c := by
      rw [bodyOf, EStateM.run_bind, hread]
    refine ⟨Cmd.wp_of_stop hrun nofun, fun h => ?_⟩
    rw [hrun] at h
    cases h
    exact .inl (.inr ⟨idx.toNat, rfl, hv, .inl (by rw [BitVec.ofNat_toNat, BitVec.setWidth_eq])⟩)

theorem soundFrom_buildBody {slot : BitVec 2} {base num : BitVec 9} (hwf : (Instr.build slot base num).wf = true) (hc : c.Sound) :
    (bodyOf (.build slot base num)).SoundFrom (LenFault (.build slot base num) c.len) c := by
  have hnum := num_le_of_wf_build hwf
  have hlens : (readLens base.toNat num.toNat).SoundFrom (LenFault (.build slot base num) c.len) c := by
    refine ⟨⟨fun ls c' h => ?_, fun e c' h => ?_⟩, fun h => ?_⟩
    · obtain ⟨rfl, -⟩ := readLens_eq_ok h
      exact ⟨hc, .of_same rfl rfl⟩
    · have hsame := Cmd.after_of_error h
      rw [readLens_after] at hsame
      subst hsame
      exact ⟨hc, .of_same rfl rfl⟩
    · obtain ⟨j, hj, rfl, hnone⟩ := readLens_eq_fault h
      exact .inl (.inr ⟨_, rfl, hnone, .inr ⟨slot, base, num, rfl, Nat.le_add_right _ _, by omega⟩⟩)
  refine hlens.bind fun ls c₁ h hc₁ _ => ?_
  obtain ⟨-, hlen, -⟩ := readLens_eq_ok h
  exact (soundFrom_buildTree _ (hlen.le.trans hnum) hc₁).bind fun _ _ _ hc _ => soundFrom_pure hc _

theorem soundFrom_bodyOf {i : Instr} (hwf : i.wf = true) (hinit : i ≠ .init) (hi : c.Inv) (hc : c.Sound) :
    (bodyOf i).SoundFrom (LenFault i c.len) c := by
  have hstream {x : Cmd (Option Word)} {G : Fault → Prop} (hx : x.SoundFrom G c) : (requireStream >>= fun _ => x).SoundFrom G c := by
    refine (soundFrom_requireStream hc).bind fun _ c' h _ _ => ?_
    rw [requireStream_run] at h
    split at h <;> cases h
    exact hx
  cases i with
  | nop => exact soundFrom_pure hc none
  | init => exact absurd rfl hinit
  | step cap => exact hstream ((soundFrom_stepBody cap hi hc).mono fun _ => .inl)
  | getbits n => exact hstream ((soundFrom_getBits _ hc).map _)
  | getbyte => exact hstream ((soundFrom_getBits 8 hc).map _)
  | align => exact hstream ((soundFrom_alignBits hc).bind fun _ _ _ hc _ => soundFrom_pure hc _)
  | ckinit kind => exact (soundFrom_note _ rfl hc).bind fun _ _ _ hc _ => soundFrom_reportResult hc
  | ckset kind => exact (soundFrom_note _ rfl hc).bind fun _ _ _ hc _ => soundFrom_reportResult hc
  | ckbyte b => exact (soundFrom_note _ rfl hc).bind fun _ _ _ hc _ => soundFrom_reportResult hc
  | lenw idx len => exact (soundFrom_lenWrite _ _ hc).bind fun _ _ _ hc _ => soundFrom_pure hc _
  | lenr idx => exact soundFrom_lenrBody idx hc
  | build slot base num => exact soundFrom_buildBody hwf hc
  | fixed => exact (soundFrom_loadFixed hc).bind fun _ _ _ hc _ => soundFrom_pure hc _
  | decode slot => exact hstream ((soundFrom_decodeSymbol _ hc).bind fun _ _ _ hc _ => soundFrom_pure hc _)
  | put b => exact hstream (soundFrom_putBody b hi hc)
  | get dist => exact hstream (soundFrom_getBody _ hc)
  | copy len dist => exact hstream (soundFrom_copyBody len _ hi hc)
  | preload b => exact hstream (soundFrom_preloadBody b hi hc)

/-- `INIT` begins with empty stores (44_inflate.md R222). -/
theorem Engine.Written.startStream (hw : c.Written) : c.startStream.Written where
  counts sl := by
    have h := hw.counts sl
    cases sl <;> exact h
  symbols sl := by
    have h := hw.symbols sl
    cases sl <;> exact h
  ring d h1 (hd : d ≤ 0) := absurd h1 (by omega)
  dst _ d h1 (hd : d ≤ 0) := absurd h1 (by omega)

end

/-- Settles O56: every piece of a command reads written entries and leaves written what it makes readable. -/
theorem commandsReadOnlyWrittenEntries : Obligations.CommandsReadOnlyWrittenEntries := by
  intro i s hi hw
  have hi₀ : s.toEngine.cleared.Inv := hi.cleared
  have hc : s.toEngine.cleared.Sound := ⟨hw.of_same rfl, hi₀.bitsBounded⟩
  refine ⟨fun t ht hbusy => ?_, fun f hf => ?_⟩
  · rcases exec_eq_next ht with ⟨-, rfl⟩ | ⟨hwf, hend⟩
    · exact hw.of_same rfl
    · have hwp : (bodyOf i).wp (fun _ c' => c'.Written) (fun _ c' => c'.Written) s.toEngine.cleared := by
        by_cases hinit : i = .init
        · subst hinit
          refine Cmd.wp_get_bind (Cmd.wp_ite (fun _ => Cmd.wp_throw nofun) fun _ => ?_)
          exact Cmd.wp_bind (Cmd.wp_set (Cmd.wp_pure hc.written.startStream))
        · exact (soundFrom_bodyOf hwf hinit hi₀ hc).wp.mono (fun _ _ h => h.1.written) fun _ _ h => h.1.written
      rcases hend with ⟨r, c, hr, rfl⟩ | ⟨e, c, hr, rfl⟩ | ⟨w, c, -, rfl⟩
      · exact (hwp.ok r c hr).of_same rfl
      · exact (hwp.raise e c hr).of_same rfl
      · cases hbusy
  · obtain ⟨c, hc'⟩ := exec_eq_fault hf
    have hwf : i.wf = true := by
      by_contra hno
      rw [exec_of_illegal (by simpa using hno)] at hf
      cases hf
    have hinit : i ≠ .init := by
      rintro rfl
      rw [bodyOf, initBody_run] at hc'
      split at hc' <;> cases hc'
    rcases (soundFrom_bodyOf hwf hinit hi₀ hc).fault hc' with (rfl | hlen) | ⟨a, rfl, hpull, ha⟩
    · exact absurd hf (stepLoopNeverReachesItsBound i s)
    · exact .inl hlen
    · exact .inr ⟨a, rfl, hpull, ha⟩

end Sys2Proof.Machine
end

section
/-! SUPPORT. The outcome table of `STEP` (44_inflate.md R236) and the host program `decodestep` that reads it (30_encoding.md R100). At
the end the settled statement. -/

namespace Sys2Proof.Machine

/-! ### The rows of the table -/

theorem State.stepResult_of_ok {t : State} (h : t.err = .none) :
    t.stepResult = some (if t.pstate = .done then .done t.result.toNat else .ok t.result.toNat) := by
  rw [State.stepResult, h]
  cases t.pstate <;> rfl

/-- A failed stream with the state its error leads to. -/
theorem State.stepResult_of_failed {t : State} (h : t.err.fromStep = true) (hp : t.pstate = t.err.terminal) :
    t.err ≠ .none ∧ t.err ≠ .noStream ∧ t.stepResult =
      some (if t.err = .checksum then .checksumError else if t.err = .srcExhausted then .sourceExhausted else .dataError) := by
  rw [State.stepResult, hp]
  generalize t.err = e at h ⊢
  cases e with
  | none | illegalCmd | destFull | noStream => cases h
  | badBlockType | badStoredLen | badCounts | treeOversub | invalidCode | badRepeat | badSymbol | invalidDistance | checksum
  | srcExhausted | treeNotBuilt => exact ⟨nofun, nofun, rfl⟩

/-- An action of the sequencer that returns leaves `ERR`. -/
structure Cmd.KeepsErr (x : Cmd Nat) : Prop where
  ok : ∀ {n c c'}, x.run c = .ok n c' → c'.err = c.err

theorem Cmd.Mute.err_of_ok {α : Type} {x : Cmd α} {a : α} {c c' : Engine} (hx : x.Mute) (h : x.run c = .ok a c') : c'.err = c.err :=
  (congrArg Engine.err (hx.of_ok h).same :)

theorem actionRules_keepsErr : Cmd.ActionRules (fun _ x => x.Mute) Cmd.KeepsErr where
  closed := sequencerClosed_mute
  mute hx := ⟨fun h => by
    obtain ⟨a, c₁, ha, h⟩ := Cmd.bind_eq_ok h
    cases h
    exact hx.err_of_ok ha⟩
  front hx hf := ⟨fun h => by
    obtain ⟨a, c₁, ha, h⟩ := Cmd.bind_eq_ok h
    exact ((hf a).ok h).trans (hx.err_of_ok ha)⟩
  emits b hx _ := ⟨fun h => by
    obtain ⟨_, c₁, hemit, h⟩ := Cmd.bind_eq_ok h
    obtain ⟨a, c₂, ha, h⟩ := Cmd.bind_eq_ok h
    cases h
    rw [hx.err_of_ok ha, emit_eq_ok hemit]
    rfl⟩
  read_bind _ hf := ⟨fun h => (hf _).ok h⟩
  raise _ := ⟨fun h => by cases h⟩

/-- The loop ends without an error or with a failed stream. -/
theorem stepLoop_err {ecap k produced : Nat} {c c' : Engine} (h : endOf ((stepLoop ecap k produced).run c) = some c')
    (herr : c.err = .none) : c'.err = .none ∨ c'.err = c'.streamErr ∧ c'.pstate.failed = true := by
  induction k generalizing produced c with
  | zero => cases h
  | succ k ih =>
    rw [stepLoop_succ_run] at h
    split at h
    · cases h
      exact .inl herr
    · cases hs : stepOnce.run c with
      | ok m c₁ =>
        rw [hs] at h
        exact ih h ((actionRules_keepsErr.stepOnce.ok hs).trans herr)
      | error stop c₁ =>
        rw [hs] at h
        cases stop with
        | raise e =>
          cases h
          exact .inr ⟨rfl, e.failed_terminal⟩
        | wait | fault | refuse => cases h

/-! ### `decodestep` -/

/-- The two reads at the end of `decodestep`. -/
theorem run_readOutcome {s : State} {rest : List HostAction}
    (hq : s.hostq = rdReg s.platform.mmioBase 0x24 :: rdReg s.platform.mmioBase 0x28 :: rest) :
    Sys2Proof.core.run 2 s =
      .next { s with hostq := rest, busReads := s.busReads ++ [lanesOf s.statusWord, lanesOf s.result] } := by
  have hlanes (t : State) {off : Nat} (hoff : off < 2 ^ 32) :
      t.busLanes (t.platform.mmioBase + BitVec.ofNat 32 off) 4 = lanesOf (t.regRead off) := by
    rw [State.busLanes_word, Platform.offset_base_add _ hoff]
  have hstatus := step_read hq
  rw [hlanes s (by decide)] at hstatus
  have hresult := step_read (s := { s with
    hostq := rdReg s.platform.mmioBase 0x28 :: rest, busReads := s.busReads ++ [lanesOf (s.regRead 0x24)] }) rfl
  rw [hlanes _ (by decide)] at hresult
  refine (run_succ_of_step hstatus 1).trans ((run_succ_of_step hresult 0).trans ?_)
  rw [List.append_assoc]
  rfl

/-- What happens beside a program leaves the rest of it, what it has read and the register window. -/
theorem besideProgram_outside {act : HostAction} {f : State → Host.Outcome State Fault Refusal} {s u : State}
    (hact : act.besideProgram = some f) (hrun : ∀ r, s.running = some r → r.start.platform = s.platform) (h : f s = .next u) :
    u.hostq = s.hostq ∧ u.busReads = s.busReads ∧ u.platform = s.platform := by
  have hdeliver {g : Engine → Engine} (hg : ∀ c, (g c).platform = c.platform) (h : deliver g s = .next u) :
      u.hostq = s.hostq ∧ u.busReads = s.busReads ∧ u.platform = s.platform := by
    cases hr : s.running with
    | none =>
      rw [deliver_idle _ _ hr] at h
      cases h
      exact ⟨rfl, rfl, hg _⟩
    | some r =>
      rw [deliver_running _ _ r hr] at h
      obtain ⟨⟨-, -, -, -, -, -, -, hplatform, -, hq, hreads⟩, -⟩ := commandsWriteOnlyTheirUnits _ _ _ h
      exact ⟨hq, hreads, hplatform.trans ((hg _).trans (hrun r hr))⟩
  cases act with
  | write | read | memWrite | wait => cases hact
  | reset =>
    cases hact
    cases h
    exact ⟨rfl, rfl, rfl⟩
  | pullAnswer a =>
    cases hact
    exact hdeliver (g := fun c => c.offerPull a) (fun _ => rfl) h
  | pushAccept =>
    cases hact
    exact hdeliver (g := fun c => c.offerPush) (fun _ => rfl) h
  | readDestAnswer b =>
    cases hact
    exact hdeliver (g := fun c => c.offerReadDest b) (fun _ => rfl) h

section
variable {s t : State} {cap : BitVec 26} {rest : List HostAction}

/-- After the first action of `decodestep`. -/
theorem step_decodeStep (hbusy : s.busy = false) (hq : s.hostq = pseudoDecodeStep s.platform.mmioBase cap ++ rest)
    (hexec : exec (.step cap) { s with
      toEngine := { s.toEngine with err := .none }
      busy := true, drop := false, hostq := (pseudoDecodeStep s.platform.mmioBase cap).tail ++ rest } = .next t) :
    step s = .next t ∧ t.hostq = (pseudoDecodeStep s.platform.mmioBase cap).tail ++ rest ∧ t.busReads = s.busReads ∧
      t.platform = s.platform := by
  obtain ⟨⟨-, -, -, -, -, -, -, hplatform, -, htq, hreads⟩, -⟩ := commandsWriteOnlyTheirUnits _ _ _ hexec
  exact ⟨(step_issue (i := .step cap) rfl hbusy hq).trans hexec, htq, hreads, hplatform⟩

/-- `decodestep` from its `wait` on, the command over. -/
theorem run_decodeStep_over {base : Addr} (hbusy : t.busy = false) (hbase : t.platform.mmioBase = base)
    (hq : t.hostq = (pseudoDecodeStep base cap).tail ++ rest) :
    Sys2Proof.core.run 3 t =
      .next { t with hostq := rest, busReads := t.busReads ++ [lanesOf t.statusWord, lanesOf t.result] } := by
  subst hbase
  exact (run_succ_of_step (step_wait_over hbusy hq) 2).trans (run_readOutcome rfl)
end

/-! ### The statement -/

/-- Settles O48: an error of the loop is a stream error, which the boundary invariant pairs with its state; and the program reads
the registers after its wait. -/
theorem stepOutcomeIsInTheTable : Obligations.StepOutcomeIsInTheTable := by
  refine ⟨fun cap s t hi ht hbusy => ?_, fun cap s t rest hbusy hq hexec => ?_⟩
  · have hfailed (herr : t.err = t.streamErr) (hp : t.pstate.failed = true) : t.stepResult = some
        (if t.err = .none then (if t.pstate = .done then .done t.result.toNat else .ok t.result.toNat)
         else if t.err = .noStream then .noStream
         else if t.err = .checksum then .checksumError
         else if t.err = .srcExhausted then .sourceExhausted
         else .dataError) := by
      have hinv : t.toEngine.Inv := (exec_boundary (h := False) ⟨hi, False.elim⟩ ht hbusy).inv
      obtain ⟨hstate, hclass⟩ := hinv.streamErr_class hp
      rw [← herr] at hstate hclass
      obtain ⟨hnone, hstream, hresult⟩ := State.stepResult_of_failed hclass hstate
      rw [hresult, if_neg hnone, if_neg hstream]
    rcases exec_step_cases ht hbusy with ⟨hidle, rfl⟩ | ⟨hp, rfl⟩ | ⟨hlive, -⟩
    · have hp : (s.complete (s.toEngine.cleared.takeError .noStream)).pstate = .idle := hidle
      rw [State.stepResult, hp]
      rfl
    · exact hfailed rfl hp
    · obtain ⟨c, hend, rfl⟩ := (exec_step_iff hlive hbusy).mp ht
      rcases stepLoop_err hend rfl with herr | ⟨herr, hp⟩
      · have hnone : (s.complete c).err = .none := herr
        rw [State.stepResult_of_ok hnone, if_pos hnone]
      · exact hfailed herr hp
  · obtain ⟨hstep, htq, hreads, hplatform⟩ := step_decodeStep hbusy hq hexec
    refine ⟨fun hover => ?_, fun act others f u htbusy hrest hact hf hover => ?_⟩
    · rw [← hreads]
      exact (run_succ_of_step hstep 3).trans (run_decodeStep_over hover (congrArg Platform.mmioBase hplatform) htq)
    · subst hrest
      have hwait := step_wait_busy (before := [rdReg s.platform.mmioBase 0x24, rdReg s.platform.mmioBase 0x28])
        (by simp [rdReg, HostAction.besideProgram]) htbusy hact htq
      have hrunning (r : Running) (hr : t.running = some r) : r.start.platform = t.platform := by
        rcases runCmd_running (exec_eq_runCmd _ _ ▸ hexec) with ⟨hnone, -⟩ | ⟨w, hsome, -⟩
        · rw [hnone] at hr
          cases hr
        · rw [hsome] at hr
          cases hr
          exact hplatform.symm
      obtain ⟨huq, hureads, huplatform⟩ := besideProgram_outside
        (s := { t with hostq := (pseudoDecodeStep s.platform.mmioBase cap).tail ++ others }) hact hrunning hf
      refine (run_succ_of_step hstep 4).trans ((run_succ_of_step (hwait.trans hf) 3).trans ?_)
      have hfinal := run_decodeStep_over hover (congrArg Platform.mmioBase (huplatform.trans hplatform)) huq
      rw [hureads] at hfinal
      rw [← hreads]
      exact hfinal

end Sys2Proof.Machine
end

section
/-! SUPPORT. Going on after a wait (60_exceptions.md R288; log entry 5): a piece that did not wait runs the same with one more answer
ready, and one that waited leaves, run again, only what comes after what it had done. At the end the settled statement. -/

namespace Sys2Proof.Machine

/-! ### One more answer -/

/-- One more answer or acceptance at a port (20_memory.md R66). -/
inductive Offer where
  | pull (a : PullAnswer)
  | push
  | readDest (b : Byte)

/-- The ports with one more answer ready. -/
def Ports.offered (p : Ports) : Offer → Ports
  | .pull a => { p with pullQ := p.pullQ ++ [a] }
  | .push => { p with pushReady := p.pushReady + 1 }
  | .readDest b => { p with readDestQ := p.readDestQ ++ [b] }

/-- The engine with one more answer ready. -/
def Engine.offered (c : Engine) (o : Offer) : Engine := c.withPorts (c.ports.offered o)

theorem Ports.offered_log (p : Ports) (o : Offer) : (p.offered o).log = p.log := by cases o <;> rfl

theorem Engine.mute_offered (c : Engine) (o : Offer) : c.Mute (c.offered o) where
  log := ⟨[], (Ports.offered_log _ _).trans (List.append_nil _).symm, rfl⟩

/-- What a host action delivers at a port is an offer. -/
theorem exists_offer {f : Engine → Engine}
    (h : (∃ p, f = fun c => c.offerPull p) ∨ f = (fun c => c.offerPush) ∨ (∃ b, f = fun c => c.offerReadDest b)) :
    ∃ o : Offer, f = (·.offered o) := by
  rcases h with ⟨a, rfl⟩ | rfl | ⟨b, rfl⟩
  · exact ⟨.pull a, rfl⟩
  · exact ⟨.push, rfl⟩
  · exact ⟨.readDest b, rfl⟩

/-! ### Pieces that go on -/

/-- Running a piece again with one more answer ready: the same where it did not wait; where it waited, something that stores at most
`N` bytes more than it had stored. -/
structure Cmd.Resumes {α : Type} (N : Nat) (x : Cmd α) : Prop where
  stored : ∀ c : Engine, ∃ n, n ≤ N ∧ c.Stored n (x.after c)
  steady : ∀ (o : Offer) (c : Engine), (∀ w c', x.run c ≠ .error (.wait w) c') →
    x.run (c.offered o) = mapEnd (·.offered o) (x.run c)
  waited : ∀ {o : Offer} {c c' : Engine} {w : Waiting}, x.run c = .error (.wait w) c' →
    ∃ n, n ≤ N ∧ c'.Stored n (x.after (c.offered o))

section
variable {α β : Type} {x : Cmd α} {g : α → Cmd β} {M N : Nat}

theorem Cmd.Resumes.mono (hx : x.Resumes M) (h : M ≤ N) : x.Resumes N where
  stored c := (hx.stored c).imp fun _ hn => ⟨hn.1.trans h, hn.2⟩
  steady := hx.steady
  waited hw := (hx.waited hw).imp fun _ hn => ⟨hn.1.trans h, hn.2⟩

/-- What is stored behind a piece comes on top of what was stored before. -/
theorem Engine.Stored.after_bind {c c' : Engine} (hx : ∃ m, m ≤ M ∧ c'.Stored m (x.after c))
    (hg : ∀ a (c : Engine), ∃ n, n ≤ N ∧ c.Stored n ((g a).after c)) : ∃ n, n ≤ M + N ∧ c'.Stored n ((x >>= g).after c) := by
  obtain ⟨m, hm, hstored⟩ := hx
  refine Cmd.after_bind_of (P := fun d => ∃ n, n ≤ M + N ∧ c'.Stored n d) ⟨m, hm.trans (Nat.le_add_right M N), hstored⟩
    fun a c₁ hr _ => ?_
  rw [Cmd.after_of_ok hr] at hstored
  obtain ⟨n, hn, hstored'⟩ := hg a c₁
  exact ⟨m + n, Nat.add_le_add hm hn, hstored.trans hstored'⟩

theorem Cmd.Resumes.bind (hx : x.Resumes M) (hg : ∀ a, (g a).Resumes N) : (x >>= g).Resumes (M + N) where
  stored c := Engine.Stored.after_bind (hx.stored c) fun a => (hg a).stored
  steady o c hno := by
    have hsame : x.run (c.offered o) = mapEnd (·.offered o) (x.run c) := by
      refine hx.steady o c fun w c' hw => hno w c' ?_
      rw [EStateM.run_bind, hw]
    rw [EStateM.run_bind] at hno
    rw [EStateM.run_bind, EStateM.run_bind, hsame]
    cases hrun : x.run c with
    | ok a c' =>
      rw [hrun] at hno
      exact (hg a).steady o c' hno
    | error st c' => rfl
  waited {o c c' w} h := by
    rcases Cmd.bind_eq_error h with h | ⟨a, c₁, hr, h⟩
    · exact Engine.Stored.after_bind (hx.waited h) fun a => (hg a).stored
    · have hsame := hx.steady o c fun w c' hw => by rw [hr] at hw; cases hw
      rw [hr] at hsame
      have hafter : (x >>= g).after (c.offered o) = (g a).after (c₁.offered o) := by
        rw [Cmd.after, EStateM.run_bind, hsame]
        rfl
      rw [hafter]
      exact ((hg a).waited h).imp fun n hn => ⟨hn.1.trans (Nat.le_add_left N M), hn.2⟩

/-- A piece that reads what no answer changes. -/
theorem Cmd.Resumes.get_bind {k : Engine → Cmd α} (hsame : ∀ c p, k (c.withPorts p) = k c) (hk : ∀ c, (k c).Resumes N) :
    (get >>= k).Resumes N where
  stored c := (hk c).stored c
  steady o c hno := (congrArg (fun z : Cmd α => z.run (c.offered o)) (hsame c _)).trans ((hk c).steady o c hno)
  waited {o c _ _} h := by
    rw [Cmd.after_get_bind, Engine.offered, hsame]
    exact (hk c).waited h

/-- A piece that emits nothing and waits with nothing done. -/
theorem Cmd.Mute.resumes (hx : x.Mute) (hsteady : ∀ (o : Offer) (c : Engine), (∀ w c', x.run c ≠ .error (.wait w) c') →
    x.run (c.offered o) = mapEnd (·.offered o) (x.run c)) (hwait : ∀ {c c' w}, x.run c = .error (.wait w) c' → c' = c) : x.Resumes 0 where
  stored c := ⟨0, le_rfl, (hx.after c).stored⟩
  steady := hsteady
  waited {o c _ _} h := by
    cases hwait h
    exact ⟨0, le_rfl, ((c.mute_offered o).trans (hx.after _)).stored⟩

theorem resumes_pure (a : α) : (pure a : Cmd α).Resumes 0 := (mute_pure a).resumes (fun _ _ _ => rfl) fun h => by cases h

theorem resumes_throw (st : Stop) : (throw st : Cmd α).Resumes 0 where
  stored c := ⟨0, le_rfl, (Engine.Mute.refl c).stored⟩
  steady _ _ _ := rfl
  waited {o c _ _} h := by
    cases h
    exact ⟨0, le_rfl, (c.mute_offered o).stored⟩

theorem resumes_modify {m : Engine → Engine} (hm : ∀ c o, m (c.offered o) = (m c).offered o) (hs : ∀ c : Engine, c.Stored 0 (m c)) :
    (modify m : Cmd PUnit).Resumes 0 where
  stored c := ⟨0, le_rfl, hs c⟩
  steady o c _ := congrArg (EStateM.Result.ok (ε := Stop) PUnit.unit) (hm c o)
  waited h := by cases h

theorem resumes_require (ok : Bool) (e : Err) : (require ok e).Resumes 0 := by
  unfold require
  split
  · exact resumes_pure ()
  · exact resumes_throw _
end

/-! ### The primitive pieces -/

theorem mapEnd_ite {α : Type} {p : Prop} [Decidable p] {g : Engine → Engine} {x y : EStateM.Result Stop Engine α} :
    mapEnd g (if p then x else y) = if p then mapEnd g x else mapEnd g y := apply_ite _ _ _ _

section
variable {c c' : Engine} {o : Offer} {w : Waiting}

/-- An answer that was ready is taken whatever comes behind it. -/
theorem pullByte_run_offered (hq : c.ports.pullQ ≠ []) : pullByte.run (c.offered o) = mapEnd (·.offered o) (pullByte.run c) := by
  obtain ⟨a, rest, hrest⟩ := List.exists_cons_of_ne_nil hq
  rw [pullByte_run, pullByte_run]
  cases o with
  | pull x =>
    have hmore : (c.offered (.pull x)).ports.pullQ = a :: (rest ++ [x]) := congrArg (· ++ [x]) hrest
    rw [hmore, hrest]
    cases a with
    | eof => rfl
    | byte b =>
      show (if c.ports.pullEnded = true then _ else _) = mapEnd _ (if c.ports.pullEnded = true then _ else _)
      rw [mapEnd_ite]
      rfl
  | push | readDest =>
    have hmore (o : Offer) (ho : (c.offered o).ports.pullQ = c.ports.pullQ) : (c.offered o).ports.pullQ = a :: rest := ho.trans hrest
    rw [hmore _ rfl, hrest]
    cases a with
    | eof => rfl
    | byte b =>
      show (if c.ports.pullEnded = true then _ else _) = mapEnd _ (if c.ports.pullEnded = true then _ else _)
      rw [mapEnd_ite]
      rfl

theorem pullByte_eq_wait (h : pullByte.run c = .error (.wait w) c') : c' = c ∧ c.ports.pullQ = [] := by
  rw [pullByte_run] at h
  rcases hq : c.ports.pullQ with _ | ⟨_ | _, _⟩
  · rw [hq] at h
    cases h
    exact ⟨rfl, rfl⟩
  · rw [hq] at h
    dsimp only at h
    split at h <;> cases h
  · rw [hq] at h
    cases h

theorem commutes_offered_memRead (o : Offer) (a : Addr) : (memRead a).Commutes (·.offered o) := by
  refine .get_bind (fun _ => rfl) fun c => .ite ?_ (commutes_throw _)
  cases c.mem.read a.toNat with
  | some b => exact commutes_pure b
  | none => exact commutes_throw _

theorem commutes_offered_residentByte (o : Offer) : residentByte.Commutes (·.offered o) :=
  .get_bind (fun _ => rfl) fun _ => .ite (commutes_throw _) (commutes_offered_memRead o _)

theorem resumes_memRead (a : Addr) : (memRead a).Resumes 0 where
  stored c := by
    rw [memRead_after]
    exact ⟨0, le_rfl, (Engine.Mute.refl c).stored⟩
  steady o c _ := (commutes_offered_memRead o a).run c
  waited {o c c' w} h := by
    have hsame := Cmd.after_of_error h
    rw [memRead_after] at hsame ⊢
    subst hsame
    exact ⟨0, le_rfl, (c.mute_offered o).stored⟩

theorem resumes_fetchSourceByte : fetchSourceByte.Resumes 0 := by
  refine mute_fetchSourceByte.resumes (fun o c hno => ?_) fun {c c' w} h => ?_
  · have hsource : (if (c.offered o).latch.ctrl.srcPull then pullByte.run (c.offered o) else residentByte.run (c.offered o)) =
        mapEnd (·.offered o) (if c.latch.ctrl.srcPull then pullByte.run c else residentByte.run c) := by
      by_cases hpull : c.latch.ctrl.srcPull = true
      · rw [if_pos hpull, if_pos (by exact hpull)]
        refine pullByte_run_offered fun hq => hno .pull c ?_
        rw [fetchSourceByte_run, if_pos hpull, pullByte_run, hq]
      · rw [if_neg hpull, if_neg (by exact hpull)]
        exact (commutes_offered_residentByte o).run c
    rw [fetchSourceByte_run, fetchSourceByte_run, hsource]
    cases (if c.latch.ctrl.srcPull then pullByte.run c else residentByte.run c) <;> rfl
  · rw [fetchSourceByte_run] at h
    cases hpull : c.latch.ctrl.srcPull with
    | true =>
      rw [if_pos hpull] at h
      cases hrun : pullByte.run c with
      | ok b c₁ =>
        rw [hrun] at h
        cases h
      | error e c₁ =>
        rw [hrun] at h
        cases h
        exact (pullByte_eq_wait hrun).1
    | false =>
      rw [if_neg (by rw [hpull]; decide)] at h
      have hsame := residentByte_after c
      cases hrun : residentByte.run c with
      | ok b c₁ =>
        rw [hrun] at h
        cases h
      | error e c₁ =>
        rw [hrun] at h
        cases h
        rwa [Cmd.after_of_error hrun] at hsame

theorem resumes_getBit : getBit.Resumes 0 := by
  have hrefill : refill.Resumes 0 := by
    refine .get_bind (fun _ _ => rfl) fun c => ?_
    split
    · exact resumes_fetchSourceByte.bind fun b => resumes_modify (fun _ _ => rfl) fun c => (Engine.Mute.mk (c := c)).stored
    · exact resumes_pure ()
  have htake : takeBit.Resumes 0 :=
    Cmd.Mute.resumes ⟨fun c => {}, fun h => by cases h⟩ (fun _ _ _ => rfl) fun h => by cases h
  exact hrefill.bind fun _ => htake

theorem resumes_buildTree (sl : Slot) (ls : List (BitVec 4)) : (buildTree sl ls).Resumes 0 := by
  have hrun (c : Engine) := buildTree_run sl ls c
  refine (mute_buildTree sl ls).resumes (fun o c _ => ?_) fun {c c' w} h => ?_
  · rw [hrun, hrun]
    by_cases hover : overSubscribed ls = true
    · rw [if_pos hover, if_pos hover]
      cases sl <;> rfl
    · rw [if_neg hover, if_neg hover]
      cases sl <;> rfl
  · rw [hrun] at h
    split at h <;> cases h

theorem resumes_readDest (pos : Word) : (readDest pos).Resumes 0 := by
  refine (mute_readDest pos).resumes (fun o c hno => ?_) fun {c c' w} h => ?_
  · rw [readDest_run] at hno ⊢
    rw [readDest_run]
    rcases hq : c.ports.readDestQ with _ | ⟨b, rest⟩
    · rw [hq] at hno
      exact absurd rfl (hno _ _)
    · cases o with
      | readDest x =>
        have hmore : (c.offered (.readDest x)).ports.readDestQ = b :: (rest ++ [x]) := congrArg (· ++ [x]) hq
        rw [hmore]
        rfl
      | pull x =>
        have hmore : (c.offered (.pull x)).ports.readDestQ = b :: rest := hq
        rw [hmore]
        rfl
      | push =>
        have hmore : (c.offered .push).ports.readDestQ = b :: rest := hq
        rw [hmore]
        rfl
  · rw [readDest_run] at h
    cases hq : c.ports.readDestQ <;> rw [hq] at h <;> cases h
    rfl

theorem sequencerClosed_resumes : Cmd.SequencerClosed fun _ x => x.Resumes 0 where
  pure := resumes_pure
  bind := .bind
  stop _ := resumes_throw _
  get_bind hsame hf := .get_bind (fun c p => hsame c {} p) hf
  getBit := resumes_getBit
  alignBits := resumes_modify (fun _ _ => rfl) fun c => (Engine.Mute.mk (c := c)).stored
  lenWrite i v := resumes_modify (fun _ _ => rfl) fun c => ((mute_lenWrite i v).after c).stored
  buildTree := resumes_buildTree
  readDest := resumes_readDest
  read_bind hsame hf := .get_bind (fun c p => hsame c c.result p) hf
  note {n} hsame hresult := resumes_modify (fun c o => by
    have hn : n (c.offered o) = n c := hsame c c.result _
    rw [hn]
    rfl) fun c => Engine.Mute.stored { same := by simp [Engine.noted, hresult] }
  mismatch := resumes_throw _

end

/-! ### `Emit`, the copy and the actions of the sequencer -/

section
variable {c c' : Engine} {o : Offer} {w : Waiting} {b : Byte}

/-- The push and the counters come on top of the resident write. -/
theorem Engine.stored_emitted_of_residentWritten (c : Engine) (b : Byte) (o : Offer) :
    (c.residentWritten b).Stored 0 ((c.offered o).emitted b) where
  same := rfl
  dstPos := (noAdvance _ _).symm
  mem _ _ := rfl
  log := by
    rw [Engine.emitted_log]
    exact ⟨_, congrArg (· ++ _) (Ports.offered_log c.ports o).symm⟩
  stores h := by
    have hcounted : ((c.offered o).counted b).storesWf = true := h
    rw [Engine.emitted_eq]
    split
    · exact hcounted
    · exact Engine.storesWf_ringWritten b hcounted

/-- An accepted push is accepted whatever else is ready. -/
theorem Engine.emitted_offered (hpush : c.latch.ctrl.dstPush = true → c.ports.pushReady ≠ 0) (b : Byte) :
    (c.offered o).emitted b = (c.emitted b).offered o := by
  have hports : ((c.offered o).emitted b).ports = ((c.emitted b).offered o).ports := by
    show (if c.latch.ctrl.dstPush = true then _ else _) = Ports.offered (if c.latch.ctrl.dstPush = true then _ else _) o
    by_cases h : c.latch.ctrl.dstPush = true
    · rw [if_pos h, if_pos h]
      cases o with
      | pull | readDest => rfl
      | push =>
        have hready : c.ports.pushReady + 1 - 1 = c.ports.pushReady - 1 + 1 := by
          have := hpush h
          omega
        show Ports.mk _ _ (c.ports.pushReady + 1 - 1) _ _ = Ports.mk _ _ (c.ports.pushReady - 1 + 1) _ _
        rw [hready]
        rfl
    · rw [if_neg h, if_neg h]
      rfl
  exact congrArg (c.emitted b).withPorts hports

theorem Engine.pushReady_offered (hpush : c.latch.ctrl.dstPush = true → c.ports.pushReady ≠ 0) :
    (c.offered o).latch.ctrl.dstPush = true → (c.offered o).ports.pushReady ≠ 0 := by
  intro h
  cases o with
  | push => exact Nat.succ_ne_zero _
  | pull | readDest => exact hpush h

theorem resumes_emit (b : Byte) : (emit b).Resumes 1 where
  stored := (writes_emit b).stored
  steady o c hno := by
    by_cases hres : c.latch.ctrl.dstRes = true → c.platform.backs (c.latch.dstBase + c.dstPos) = true
    · by_cases hpush : c.latch.ctrl.dstPush = true → c.ports.pushReady ≠ 0
      · rw [emit_run_of_ready hres hpush, emit_run_of_ready (c := c.offered o) hres (Engine.pushReady_offered hpush),
          Engine.emitted_offered hpush]
        rfl
      · obtain ⟨hp, hq⟩ := Classical.not_imp.mp hpush
        exact absurd (emit_run_of_not_accepted hp (not_not.mp hq) hres) (hno _ _)
    · obtain ⟨hr, hbacks⟩ := Classical.not_imp.mp hres
      exact absurd (emit_run_of_unbacked hr (Bool.eq_false_of_not_eq_true hbacks)) (hno _ _)
  waited {o c c' w} h := by
    by_cases hres : c.latch.ctrl.dstRes = true → c.platform.backs (c.latch.dstBase + c.dstPos) = true
    · by_cases hpush : c.latch.ctrl.dstPush = true → c.ports.pushReady ≠ 0
      · rw [emit_run_of_ready hres hpush] at h
        cases h
      · obtain ⟨hp, hq⟩ := Classical.not_imp.mp hpush
        rw [emit_run_of_not_accepted hp (not_not.mp hq) hres] at h
        cases h
        refine ⟨0, Nat.zero_le 1, ?_⟩
        by_cases hready : (c.offered o).latch.ctrl.dstPush = true → (c.offered o).ports.pushReady ≠ 0
        · rw [Cmd.after_of_ok (emit_run_of_ready (c := c.offered o) hres hready)]
          exact c.stored_emitted_of_residentWritten b o
        · obtain ⟨hp', hq'⟩ := Classical.not_imp.mp hready
          rw [Cmd.after_of_error (emit_run_of_not_accepted (c := c.offered o) hp' (not_not.mp hq') hres)]
          exact ((c.residentWritten b).mute_offered o).stored
    · obtain ⟨hr, hbacks⟩ := Classical.not_imp.mp hres
      have hno : c.platform.backs (c.latch.dstBase + c.dstPos) = false := Bool.eq_false_of_not_eq_true hbacks
      rw [emit_run_of_unbacked hr hno] at h
      cases h
      rw [Cmd.after_of_error (emit_run_of_unbacked (c := c.offered o) hr hno)]
      exact ⟨0, Nat.zero_le 1, (c.mute_offered o).stored⟩

theorem resumes_copyLoop (d n : Nat) : (copyLoop d n).Resumes n := by
  induction n with
  | zero => exact resumes_pure ()
  | succ n ih =>
    exact ((sequencerClosed_resumes.histRead d).bind fun b => (resumes_emit b).bind fun _ => ih).mono (by omega)

theorem actionRules_resumes : Cmd.ActionRules (fun _ x => x.Resumes 0) fun x => x.Resumes 1 where
  closed := sequencerClosed_resumes
  mute hx := (hx.bind fun _ => resumes_pure 0).mono (Nat.zero_le 1)
  front hx hf := (hx.bind hf).mono (Nat.zero_add 1).le
  emits b hx _ := ((resumes_emit b).bind fun _ => hx.bind fun _ => resumes_pure 1).mono le_rfl
  read_bind hsame hf := .get_bind (fun c p => hsame c c.result p) hf
  raise _ := (resumes_throw _).mono (Nat.zero_le 1)

/-! ### The loop and the commands -/

/-- The registers of a failed stream are no stored bytes. -/
theorem Engine.Stored.takeStepError {n : Nat} (h : c.Stored n c') (e : Err) (p : PState) (r : Word) :
    c.Stored n (c'.takeStepError e p r) where
  same := by
    rw [h.same]
    rfl
  dstPos := h.dstPos
  mem := h.mem
  log := h.log
  stores := h.stores

theorem stepLoop_stored {ecap k produced : Nat} (hle : produced ≤ ecap) :
    ∃ n, produced + n ≤ ecap ∧ c.Stored n ((stepLoop ecap k produced).after c) := by
  have hwrites := stepLoop_writes (k := k) (c := c) hle
  cases h : (stepLoop ecap k produced).run c with
  | ok r d =>
    obtain ⟨bs, hbs, -, hwrote⟩ := hwrites.ok h
    rw [Cmd.after_of_ok h]
    exact ⟨_, hbs, hwrote.stored⟩
  | error st d =>
    rw [Cmd.after_of_error h]
    exact (hwrites.error h).1

/-- The loop run again after a wait, unless its bound is used up. -/
theorem stepLoop_waited {ecap k k' produced : Nat} (hle : produced ≤ ecap) (h : (stepLoop ecap k produced).run c = .error (.wait w) c')
    (hbound : ∀ d, (stepLoop ecap k' produced).run (c.offered o) ≠ .error (.fault .loopBound) d) :
    ∃ n, n ≤ ecap + 1 ∧ c'.Stored n ((stepLoop ecap k' produced).after (c.offered o)) := by
  induction k generalizing k' produced c with
  | zero => cases h
  | succ k ih =>
    cases k' with
    | zero => exact absurd rfl (hbound (c.offered o))
    | succ k' =>
      have hp : (c.offered o).pstate = c.pstate := rfl
      rw [stepLoop_succ_run] at h
      split at h
      · cases h
      · next hend =>
        have hne : produced ≠ ecap := fun h => hend (.inr h)
        rw [Cmd.after, stepLoop_succ_run, hp, if_neg hend]
        rw [stepLoop_succ_run, hp, if_neg hend] at hbound
        cases hs : stepOnce.run c with
        | ok m c₁ =>
          have hsame := actionRules_resumes.stepOnce.steady o c fun _ _ hw => by rw [hs] at hw; cases hw
          obtain ⟨-, -, hm, -⟩ := emits_stepOnce.ok hs
          rw [hs] at h hsame
          rw [hsame] at hbound ⊢
          exact ih (by omega) h hbound
        | error st c₁ =>
          rw [hs] at h
          cases st with
          | raise | fault | refuse => cases h
          | wait w' =>
            cases h
            obtain ⟨m, hm, hstored⟩ := actionRules_resumes.stepOnce.waited (o := o) hs
            cases hagain : stepOnce.run (c.offered o) with
            | ok j c₂ =>
              rw [Cmd.after_of_ok hagain] at hstored
              obtain ⟨-, -, hj, -⟩ := emits_stepOnce.ok hagain
              obtain ⟨n, hn, hrest⟩ := stepLoop_stored (k := k') (c := c₂) (show produced + j ≤ ecap by omega)
              exact ⟨m + n, by omega, hstored.trans hrest⟩
            | error st c₂ =>
              rw [Cmd.after_of_error hagain] at hstored
              refine ⟨m, by omega, ?_⟩
              cases st with
              | raise e => exact hstored.takeStepError _ _ _
              | wait | fault | refuse => exact hstored

theorem Cmd.Resumes.behindStream {N : Nat} {x : Cmd (Option Word)} (hx : x.Resumes N) : (requireStream >>= fun _ => x).Resumes N := by
  have hstream : requireStream.Resumes 0 := .get_bind (fun _ _ => rfl) fun _ => resumes_require _ _
  exact (hstream.bind fun _ => hx).mono (Nat.zero_add N).le

theorem Cmd.Resumes.required {N : Nat} {ok : Bool} {e : Err} {x : Cmd (Option Word)} (hx : x.Resumes N) :
    (require ok e >>= fun _ => x).Resumes N :=
  ((resumes_require ok e).bind fun _ => hx).mono (Nat.zero_add N).le

/-- The body of every command but `INIT` and `STEP`. -/
theorem resumes_bodyOf {i : Instr} (hinit : i ≠ .init) (hstep : ∀ cap, i ≠ .step cap) : (bodyOf i).Resumes (2 ^ 26) := by
  have hclosed := sequencerClosed_resumes
  have hreport : reportResult.Resumes 0 := .get_bind (fun _ _ => rfl) fun _ => resumes_pure _
  have hck {m : Engine → Engine} (hm : ∀ c o, m (c.offered o) = (m c).offered o) (hs : ∀ c : Engine, c.Stored 0 (m c)) :
      (modify m >>= fun _ => reportResult : Cmd (Option Word)).Resumes (2 ^ 26) :=
    ((resumes_modify hm hs).bind fun _ => hreport).mono (Nat.zero_le _)
  cases i with
  | init => exact absurd rfl hinit
  | step cap => exact absurd rfl (hstep cap)
  | nop => exact (resumes_pure none).mono (Nat.zero_le _)
  | getbits n => exact (hclosed.map (hclosed.getBits _) some).behindStream.mono (Nat.zero_le _)
  | getbyte => exact (hclosed.map (hclosed.getBits 8) some).behindStream.mono (Nat.zero_le _)
  | align => exact (hclosed.alignBits.bind fun _ => resumes_pure _).behindStream.mono (Nat.zero_le _)
  | ckinit | ckset | ckbyte =>
    exact hck (fun _ _ => rfl) fun _ =>
      { same := rfl, dstPos := (noAdvance _ _).symm, mem := fun _ _ => rfl, log := List.prefix_rfl, stores := id }
  | lenw idx len => exact ((hclosed.lenWrite _ _).bind fun _ => resumes_pure _).mono (Nat.zero_le _)
  | lenr idx => exact ((hclosed.lenRead _).bind fun _ => resumes_pure _).mono (Nat.zero_le _)
  | build slot base num =>
    exact ((hclosed.readLens _ _).bind fun _ => (resumes_buildTree _ _).bind fun _ => resumes_pure _).mono (Nat.zero_le _)
  | fixed => exact (hclosed.loadFixed.bind fun _ => resumes_pure _).mono (Nat.zero_le _)
  | decode slot => exact ((hclosed.decodeSymbol _).bind fun _ => resumes_pure _).behindStream.mono (Nat.zero_le _)
  | put b =>
    have hput := ((resumes_emit b).bind fun _ => resumes_pure (some (0 : Word))).mono (N := 2 ^ 26) (by decide)
    exact Cmd.Resumes.behindStream (.get_bind (fun _ _ => rfl) fun _ => hput.required)
  | get dist =>
    have hget (d : Nat) := ((hclosed.histRead d).bind fun b => resumes_pure (some (b.setWidth 32 : Word))).mono (Nat.zero_le (2 ^ 26))
    exact Cmd.Resumes.behindStream (.get_bind (fun _ _ => rfl) fun _ => (hget _).required)
  | copy len dist =>
    have hcopy (d : Nat) := ((resumes_copyLoop d len.toNat).bind fun _ => resumes_pure (some (len.setWidth 32 : Word))).mono
      (N := 2 ^ 26) (by have := len.isLt; omega)
    exact Cmd.Resumes.behindStream (.get_bind (fun _ _ => rfl) fun _ => (hcopy _).required.required)
  | preload b =>
    have hring : (ringWrite b).Resumes 0 := resumes_modify (fun _ _ => rfl) fun c => (c.wrote_ringWritten b).stored
    have hbody := (hring.bind fun _ => resumes_pure (some (0 : Word))).mono (Nat.zero_le (2 ^ 26))
    exact Cmd.Resumes.behindStream (.get_bind (fun _ _ => rfl) fun _ => hbody.required)

/-- The body of every command, run again after a wait. -/
theorem bodyOf_waited {i : Instr} (h : (bodyOf i).run c = .error (.wait w) c') :
    ∃ n, n ≤ 2 ^ 26 + 1 ∧ c'.Stored n ((bodyOf i).after (c.offered o)) := by
  by_cases hinit : i = .init
  · subst hinit
    rw [bodyOf, initBody_run] at h
    split at h <;> cases h
  by_cases hstep : ∃ cap, i = .step cap
  · obtain ⟨cap, rfl⟩ := hstep
    have hbound := bounded_bodyOf (.step cap) (c.offered o)
    have hidle : c.pstate ≠ .idle := by
      intro hidle
      rw [bodyOf, EStateM.run_bind, requireStream_run, if_pos hidle] at h
      cases h
    have hrun (d : Engine) (hd : d.pstate = c.pstate) : (bodyOf (.step cap)).run d = (stepBody cap).run d :=
      requireStream_bind_run (by rw [hd]; exact hidle)
    rw [Cmd.after, hrun (c.offered o) rfl]
    rw [hrun c rfl] at h
    simp only [hrun (c.offered o) rfl] at hbound
    by_cases hfailed : c.pstate.failed = true
    · rw [stepBody_run_of_failed cap hfailed] at h
      cases h
    rcases c.pstate.live_of_not hidle hfailed with hp | hp
    · rw [stepBody_run_of_active cap hp] at h
      rw [stepBody_run_of_active (c := c.offered o) cap hp] at hbound ⊢
      obtain ⟨n, hn, hstored⟩ := stepLoop_waited (Nat.zero_le _) h hbound
      exact ⟨n, hn.trans (Nat.succ_le_succ ((c.budget_le cap).trans cap.isLt.le)), hstored⟩
    · rw [stepBody_run_of_done cap hp] at h
      cases h
  · exact ((resumes_bodyOf hinit fun cap hcap => hstep ⟨cap, hcap⟩).waited h).imp fun n hn => ⟨hn.1.trans (Nat.le_succ _), hn.2⟩
end

/-- A command with a legal operand leaves what its body leaves, but for `RESULT` and `ERR`. -/
theorem exec_engine_of_wf {i : Instr} {s t : State} (hwf : i.wf = true) (h : exec i s = .next t) :
    ∃ r e, t.toEngine = { (bodyOf i).after s.toEngine.cleared with result := r, err := e } := by
  rcases exec_eq_next h with ⟨hno, -⟩ | ⟨-, ⟨r, c, hr, rfl⟩ | ⟨e, c, hr, rfl⟩ | ⟨w, c, hr, rfl⟩⟩
  · rw [hwf] at hno
    cases hno
  · exact ⟨r.getD c.result, c.err, by rw [Cmd.after_of_ok hr]; rfl⟩
  · exact ⟨0, e, by rw [Cmd.after_of_error hr]; rfl⟩
  · exact ⟨c.result, c.err, by rw [Cmd.after_of_error hr]; rfl⟩

/-- Settles O60: the command is run again over one more answer, and what it does then comes after what it had done. -/
theorem resumingKeepsEveryEarlierEffect : Obligations.ResumingKeepsEveryEarlierEffect := by
  intro i s t u f ht hbusy hf hu
  obtain ⟨o, rfl⟩ := exists_offer hf
  rcases exec_eq_next ht with ⟨-, rfl⟩ | ⟨hwf, ⟨r, c, -, rfl⟩ | ⟨e, c, -, rfl⟩ | ⟨w, c, hr, rfl⟩⟩
  · cases hbusy
  · cases hbusy
  · cases hbusy
  · obtain ⟨n, hn, hstored⟩ := bodyOf_waited (o := o) hr
    rw [deliver_running _ _ ⟨i, s.toEngine.cleared, w⟩ rfl] at hu
    obtain ⟨r, e, hue⟩ := exec_engine_of_wf hwf hu
    have hfinal : c.Stored n u.toEngine := hue ▸ hstored.reported r e
    exact ⟨hfinal.log, fun a ha => hfinal.mem_outside (by omega) ha⟩

end Sys2Proof.Machine
end

section
/-! SUPPORT. A stored block (44_inflate.md R230): a whole byte taken at a byte boundary, the source behind emitted bytes, and the passes
that copy the block. At the end the settled statement. -/

namespace Sys2Proof.Machine

/-! ### A whole byte -/

section
variable {c : Engine} {b : Byte} {bs : List Byte}

/-- Bits that are held are taken without a fetch. -/
theorem getBitsLoop_run_of_held {k : Nat} (i : Nat) (v : Word) (hk : k ≤ c.bitcnt.toNat) :
    ∃ v', (getBitsLoop k i v).run c = .ok v' { c with bitacc := c.bitacc >>> k, bitcnt := c.bitcnt - BitVec.ofNat 5 k } := by
  induction k generalizing i v c with
  | zero => exact ⟨v, by simp [getBitsLoop]⟩
  | succ k ih =>
    have hne : c.bitcnt ≠ 0 := fun h => by
      rw [h] at hk
      exact absurd hk (Nat.not_succ_le_zero k)
    have hbit : getBit.run c = .ok (c.bitacc.getLsbD 0) { c with bitacc := c.bitacc >>> 1, bitcnt := c.bitcnt - 1 } := by
      rw [getBit_run, refill_run, if_neg hne]
    obtain ⟨v', hrest⟩ := ih (c := { c with bitacc := c.bitacc >>> 1, bitcnt := c.bitcnt - 1 }) (i + 1)
      (v ||| ((BitVec.ofBool (c.bitacc.getLsbD 0)).setWidth 32 <<< i)) (by
        show k ≤ (c.bitcnt - 1).toNat
        bv_omega)
    refine ⟨v', ?_⟩
    rw [getBitsLoop_succ_run, hbit]
    simp only [hrest]
    have hacc : c.bitacc >>> 1 >>> k = c.bitacc >>> (k + 1) := by rw [Nat.add_comm, BitVec.shiftRight_add]
    have hcnt : c.bitcnt - 1 - BitVec.ofNat 5 k = c.bitcnt - BitVec.ofNat 5 (k + 1) := by
      rw [BitVec.ofNat_add, BitVec.add_comm]
      exact (sub_add_eq_sub_sub c.bitcnt 1 _).symm
    rw [hacc, hcnt]

theorem length_byteBits (b : Byte) : (byteBits b).length = 8 := by simp [byteBits]

theorem setWidth_bitsWord_byteBits (b : Byte) : (bitsWord (byteBits b)).setWidth 8 = b := by
  refine BitVec.eq_of_getLsbD_eq fun i hi => ?_
  rw [BitVec.getLsbD_setWidth, getLsbD_bitsWord, byteBits]
  simp [hi, show i < 32 by omega]

/-- At a byte boundary `GetBits(8)` is the next byte of the source. -/
theorem getBits_run_of_byte (hcnt : c.bitcnt = 0) (h : c.sourceBytes = b :: bs) :
    ∃ v, v.setWidth 8 = b ∧ (getBits 8).run c = .ok v { c.fetched b with bitacc := 0, bitcnt := 0 } := by
  have hheld : c.heldBits = [] := by simp [Engine.heldBits, hcnt]
  have hbits : c.sourceBits = byteBits b ++ bs.flatMap byteBits := by rw [Engine.sourceBits, hheld, h]; rfl
  obtain ⟨c', hrun, -, -⟩ := getBits_run_of_sourceBits hbits
  rw [length_byteBits] at hrun
  have hfirst : getBit.run c = .ok ((b.setWidth 32 : Word).getLsbD 0) { c.fetched b with bitacc := b.setWidth 32 >>> 1, bitcnt := 7 } := by
    rw [getBit_run, refill_run, if_pos hcnt, (fetchSourceByte_run_of_sourceBytes h).1]
    have hseven : (8 : BitVec 5) - 1 = 7 := by decide
    simp only [hseven]
  obtain ⟨v, hloop⟩ := getBitsLoop_run_of_held (k := 7) (0 + 1)
    ((0 : Word) ||| ((BitVec.ofBool ((b.setWidth 32 : Word).getLsbD 0)).setWidth 32 <<< 0))
    (c := { c.fetched b with bitacc := b.setWidth 32 >>> 1, bitcnt := 7 }) le_rfl
  have hzero : (b.setWidth 32 : Word) >>> 1 >>> 7 = 0 := by
    rw [← BitVec.shiftRight_add]
    exact BitVec.eq_of_toNat_eq (by simp [Nat.shiftRight_eq_div_pow]; omega)
  have hall : (getBits 8).run c = .ok v { c.fetched b with bitacc := 0, bitcnt := 0 } := by
    rw [getBits, getBitsLoop_succ_run, hfirst]
    have hnone : (7 : BitVec 5) - BitVec.ofNat 5 7 = 0 := by decide
    simp only [hzero, hnone] at hloop
    exact hloop
  obtain ⟨rfl, -⟩ := EStateM.Result.ok.inj (hrun.symm.trans hall)
  exact ⟨_, setWidth_bitsWord_byteBits b, hall⟩
end

/-! ### The source behind emitted bytes -/

section
variable {c : Engine} {b : Byte} {bs rest : List Byte} {n : Nat}

theorem residentBytes_congr {p : Platform} {m m' : Memory} {n : Nat} {a : Addr}
    (h : ∀ k, k < n → m'.read (a + BitVec.ofNat 32 k).toNat = m.read (a + BitVec.ofNat 32 k).toNat) :
    residentBytes p m' n a = residentBytes p m n a := by
  induction n generalizing a with
  | zero => rfl
  | succ n ih =>
    have hfirst : m'.read a.toNat = m.read a.toNat := by simpa using h 0 n.succ_pos
    have hrest : residentBytes p m' n (a + 1) = residentBytes p m n (a + 1) := ih fun k hk => by
      have hnext := h (k + 1) (Nat.succ_lt_succ hk)
      rw [Nat.add_comm, BitVec.ofNat_add, ← BitVec.add_assoc] at hnext
      exact hnext
    rw [residentBytes, residentBytes, hfirst, hrest]

/-- The slices in use lie apart and hold their cursors, the destination with room for `n` bytes (20_memory.md R64). -/
structure Engine.Apart (c : Engine) (n : Nat) : Prop where
  slices : c.latch.overlaps = false
  source : c.latch.ctrl.srcPull = false → c.srcPos.toNat ≤ c.latch.srcLen.toNat
  room : c.HasRoom n

/-- The resident cursor is outside the source slice. -/
theorem Engine.Apart.outside (h : c.Apart (n + 1)) (hpull : c.latch.ctrl.srcPull = false) (hres : c.latch.ctrl.dstRes = true) :
    ¬ (c.latch.dstBase + c.dstPos - c.latch.srcBase).toNat < c.latch.srcLen.toNat := by
  intro hsrc
  have hroom := h.room hres
  have hover : slicesOverlap c.latch.srcBase c.latch.srcLen c.latch.dstBase c.latch.dstLen = true :=
    (slicesOverlap_iff _ _ _ _).mpr ⟨c.latch.dstBase + c.dstPos, hsrc, by rw [add_sub_cancel_left]; omega⟩
  have hslices := h.slices
  rw [Latch.overlaps, hpull, hres, hover] at hslices
  cases hslices

/-- An emitted byte is no byte of the source. -/
theorem Engine.Apart.sourceBytes_emitted (h : c.Apart (n + 1)) (b : Byte) : (c.emitted b).sourceBytes = c.sourceBytes := by
  cases hpull : c.latch.ctrl.srcPull with
  | true =>
    have hports : (c.emitted b).ports.pullQ = c.ports.pullQ ∧ (c.emitted b).ports.pullEnded = c.ports.pullEnded := by
      cases hpush : c.latch.ctrl.dstPush <;> simp [Engine.emitted, hpush]
    have hpull' : (c.emitted b).latch.ctrl.srcPull = true := hpull
    rw [Engine.sourceBytes, Engine.sourceBytes, hports.1, hports.2, if_pos hpull, if_pos hpull']
  | false =>
    have hpull' : (c.emitted b).latch.ctrl.srcPull ≠ true := by
      show c.latch.ctrl.srcPull ≠ true
      rw [hpull]
      decide
    rw [Engine.sourceBytes, Engine.sourceBytes, if_neg hpull', if_neg (by rw [hpull]; decide)]
    refine residentBytes_congr fun k hk => ?_
    show Cells.read (if c.latch.ctrl.dstRes = true then _ else _) _ = _
    split
    · next hres =>
      refine Cells.read_write_other _ _ _ _ fun heq => h.outside hpull hres ?_
      have hle := h.source hpull
      have haddr : c.latch.srcBase + c.srcPos + BitVec.ofNat 32 k = c.latch.dstBase + c.dstPos := BitVec.eq_of_toNat_eq heq
      have hk' : k < (c.latch.srcLen - c.srcPos).toNat := hk
      rw [← haddr]
      bv_omega
    · rfl

theorem Engine.Apart.sourceEnds_emitted (h : c.Apart (n + 1)) (b : Byte) : (c.emitted b).sourceEnds = c.sourceEnds := by
  have hq : (c.emitted b).ports.pullQ = c.ports.pullQ := by cases hpush : c.latch.ctrl.dstPush <;> simp [Engine.emitted, hpush]
  rw [Engine.sourceEnds, Engine.sourceEnds, h.sourceBytes_emitted b, hq]
  rfl

theorem Engine.Apart.fetched (h : c.Apart n) (hbytes : c.sourceBytes = b :: bs) : (c.fetched b).Apart n where
  slices := h.slices
  source (hpull : c.latch.ctrl.srcPull = false) := by
    have hle := h.source hpull
    rw [Engine.sourceBytes, hpull, if_neg Bool.false_ne_true] at hbytes
    obtain ⟨-, -, k, hk, -⟩ := residentBytes_eq_cons hbytes
    show (c.srcPos + 1).toNat ≤ c.latch.srcLen.toNat
    bv_omega
  room := h.room

theorem Engine.Apart.emitted (h : c.Apart (n + 1)) (b : Byte) : (c.emitted b).Apart n where
  slices := h.slices
  source := h.source
  room := h.room.emitted b

/-! ### The passes of a stored block -/

/-- The ports after the source bytes `bs` have been taken and emitted one by one. -/
def Ports.copied (p : Ports) (pull push : Bool) (bs : List Byte) : Ports :=
  { p with
    pullQ := if pull then p.pullQ.drop bs.length else p.pullQ
    pushReady := if push then p.pushReady - bs.length else p.pushReady
    log := p.log ++ bs.flatMap fun b => (if pull then [.pull (.byte b)] else []) ++ (if push then [.push b] else []) }

/-- The engine with the bit reader, `SREM` and the ports of another. -/
def Engine.reading (c r : Engine) : Engine :=
  { c with bitacc := r.bitacc, bitcnt := r.bitcnt, srcPos := r.srcPos, srem := r.srem, ports := r.ports }

/-- The engine after the passes of a stored block that copy the source bytes `bs`. -/
def Engine.copied (c : Engine) (bs : List Byte) : Engine :=
  (bs.foldl Engine.emitted c).reading { c with
    bitacc := if bs = [] then c.bitacc else 0, bitcnt := 0, srcPos := c.srcPos + BitVec.ofNat 32 bs.length
    srem := c.srem - BitVec.ofNat 16 bs.length, ports := c.ports.copied c.latch.ctrl.srcPull c.latch.ctrl.dstPush bs }

/-- Emitting does not see the bit reader, `SREM` and the ports. -/
theorem foldl_emitted_reading (bs : List Byte) (c r q : Engine) :
    (bs.foldl Engine.emitted (c.reading r)).reading q = (bs.foldl Engine.emitted c).reading q := by
  induction bs generalizing c r with
  | nil => rfl
  | cons b bs ih =>
    have hone : (c.reading r).emitted b = (c.emitted b).reading ((c.reading r).emitted b) := rfl
    rw [List.foldl_cons, List.foldl_cons, hone]
    exact ih _ _

theorem Ports.copied_cons (p : Ports) (pull push : Bool) (b : Byte) (bs : List Byte) :
    (p.copied pull push [b]).copied pull push bs = p.copied pull push (b :: bs) := by
  cases pull <;> cases push <;> simp [Ports.copied, Nat.sub_sub, Nat.add_comm]

theorem Engine.reading_congr {d r r' : Engine} (hacc : r.bitacc = r'.bitacc) (hcnt : r.bitcnt = r'.bitcnt) (hpos : r.srcPos = r'.srcPos)
    (hrem : r.srem = r'.srem) (hports : r.ports = r'.ports) : d.reading r = d.reading r' := by
  simp only [Engine.reading, hacc, hcnt, hpos, hrem, hports]

theorem Engine.copied_nil (hcnt : c.bitcnt = 0) : c.copied [] = c := by
  have hports : c.ports.copied c.latch.ctrl.srcPull c.latch.ctrl.dstPush [] = c.ports := by simp [Ports.copied]
  have hpos : c.srcPos + BitVec.ofNat 32 0 = c.srcPos := by simp
  have hrem : c.srem - BitVec.ofNat 16 0 = c.srem := by simp
  exact Engine.reading_congr (d := c) (r' := c) rfl hcnt.symm hpos hrem hports

theorem Engine.copied_cons (c : Engine) (b : Byte) (bs : List Byte) : (c.copied [b]).copied bs = c.copied (b :: bs) := by
  refine (foldl_emitted_reading bs (c.emitted b) _ _).trans (Engine.reading_congr ?_ rfl ?_ ?_ (c.ports.copied_cons _ _ b bs))
  · show (if bs = [] then (if [b] = [] then c.bitacc else 0) else 0) = if b :: bs = [] then c.bitacc else 0
    rw [if_neg (List.cons_ne_nil _ _), if_neg (List.cons_ne_nil _ _), ite_self]
  · show c.srcPos + BitVec.ofNat 32 1 + BitVec.ofNat 32 bs.length = c.srcPos + BitVec.ofNat 32 (bs.length + 1)
    rw [Nat.add_comm, BitVec.ofNat_add, BitVec.add_assoc]
  · show c.srem - BitVec.ofNat 16 1 - BitVec.ofNat 16 bs.length = c.srem - BitVec.ofNat 16 (bs.length + 1)
    rw [Nat.add_comm, BitVec.ofNat_add]
    exact (sub_add_eq_sub_sub c.srem _ _).symm

/-- The byte taken and emitted, before it is counted off. -/
theorem Engine.copied_one (c : Engine) (b : Byte) :
    { ({ c.fetched b with bitacc := 0, bitcnt := 0 } : Engine).emitted b with srem := c.srem - 1 } = c.copied [b] := by
  have hports : (({ c.fetched b with bitacc := 0, bitcnt := 0 } : Engine).emitted b).ports =
      c.ports.copied c.latch.ctrl.srcPull c.latch.ctrl.dstPush [b] := by
    cases hpull : c.latch.ctrl.srcPull <;> cases hpush : c.latch.ctrl.dstPush <;>
      simp [Engine.emitted, Engine.fetched, Ports.copied, hpull, hpush]
  exact Engine.reading_congr (d := c.emitted b)
    (r := { ({ c.fetched b with bitacc := 0, bitcnt := 0 } : Engine).emitted b with srem := c.srem - 1 }) rfl rfl rfl rfl hports

/-- One pass takes the next byte of the source and emits it. -/
theorem stepOnce_run_of_stored (hp : c.pstate = .stored) (hcnt : c.bitcnt = 0) (hrem : c.srem ≠ 0) (hbytes : c.sourceBytes = b :: bs)
    (hacc : c.accepts (n + 1)) : stepOnce.run c = .ok 1 (c.copied [b]) := by
  obtain ⟨v, rfl, hrun⟩ := getBits_run_of_byte hcnt hbytes
  have hready : (c.fetched (v.setWidth 8)).ports.pushReady = c.ports.pushReady := by
    cases hpull : c.latch.ctrl.srcPull <;> simp [Engine.fetched, hpull]
  have hacc' : ({ c.fetched (v.setWidth 8) with bitacc := 0, bitcnt := 0 } : Engine).accepts (n + 1) := by
    refine ⟨hacc.1, fun hpush => ?_⟩
    show n + 1 ≤ (c.fetched (v.setWidth 8)).ports.pushReady
    rw [hready]
    exact hacc.2 hpush
  rw [stepOnce_run, hp, ← Engine.copied_one]
  simp only [storedStep, EStateM.run_bind, EStateM.run_get, if_neg hrem, hrun, hacc'.emit_run]
  rfl

theorem Engine.accepts.copied (h : c.accepts (n + 1)) (b : Byte) : (c.copied [b]).accepts n := by
  obtain ⟨hres, hpush⟩ := h.emitted b
  refine ⟨hres, fun hp => ?_⟩
  have hp' : c.latch.ctrl.dstPush = true := hp
  have hready := hpush hp
  rw [Engine.emitted, if_pos hp'] at hready
  show n ≤ (c.ports.copied _ _ [b]).pushReady
  rw [Ports.copied, if_pos hp']
  exact hready

/-- What a pass leaves of the source. -/
theorem Engine.Apart.copied (h : c.Apart (n + 1)) (hbytes : c.sourceBytes = b :: bs) :
    (c.copied [b]).Apart n ∧ (c.copied [b]).sourceBytes = bs ∧ (c.copied [b]).sourceEnds = c.sourceEnds := by
  obtain ⟨-, hrest⟩ := fetchSourceByte_run_of_sourceBytes hbytes
  have hfetched := h.fetched hbytes
  have htaken : ({ c.fetched b with bitacc := 0, bitcnt := 0 } : Engine).Apart (n + 1) :=
    ⟨hfetched.slices, hfetched.source, hfetched.room⟩
  have hsource := (htaken.sourceBytes_emitted b).trans hrest
  have hends := (htaken.sourceEnds_emitted b).trans (Engine.sameEnd_fetched hbytes).ends
  have hdone := htaken.emitted b
  rw [← Engine.copied_one]
  exact ⟨⟨hdone.slices, hdone.source, hdone.room⟩, hsource, hends⟩

/-- The passes copy the bytes in front of the source for as long as the block and the budget last. -/
theorem stepEnd_of_stored {left produced : Nat} (hp : c.pstate = .stored) (hcnt : c.bitcnt = 0) (hrem : bs.length ≤ c.srem.toNat)
    (hbytes : c.sourceBytes = bs ++ rest) (hacc : c.accepts bs.length) (hapart : c.Apart bs.length) :
    stepEnd (left + bs.length) produced c = stepEnd left (produced + bs.length) (c.copied bs) ∧
      (c.copied bs).sourceBytes = rest ∧ (c.copied bs).sourceEnds = c.sourceEnds := by
  induction bs generalizing c produced with
  | nil =>
    rw [Engine.copied_nil hcnt]
    exact ⟨rfl, hbytes, rfl⟩
  | cons b bs ih =>
    have hone : c.srem ≠ 0 := by
      rintro h
      rw [h] at hrem
      exact absurd hrem (Nat.not_succ_le_zero _)
    obtain ⟨hapart', hsource, hends⟩ := hapart.copied hbytes
    have hrem' : bs.length ≤ (c.copied [b]).srem.toNat := by
      show bs.length ≤ (c.srem - 1).toNat
      rw [List.length_cons] at hrem
      bv_omega
    obtain ⟨hrest, hsource', hends'⟩ := ih (c := c.copied [b]) (produced := produced + 1) hp rfl hrem' hsource (hacc.copied b) hapart'
    rw [Engine.copied_cons] at hrest hsource' hends'
    refine ⟨?_, hsource', hends'.trans hends⟩
    rw [stepEnd_of_pass (by rw [hp]; rfl) (by rw [List.length_cons]; omega) (stepOnce_run_of_stored hp hcnt hone hbytes hacc),
      List.length_cons, ← Nat.add_assoc, Nat.add_sub_cancel, hrest, Nat.add_assoc, Nat.add_comm 1]

/-- At the end of the source, at a byte boundary, a pass raises. -/
theorem stepOnce_run_of_stored_end (hp : c.pstate = .stored) (hcnt : c.bitcnt = 0) (hrem : c.srem ≠ 0) (hbytes : c.sourceBytes = [])
    (hends : c.sourceEnds = true) : stepOnce.run c = .error (.raise .srcExhausted) c.ended := by
  have hrun : (getBits 8).run c = .error (.raise .srcExhausted) c.ended := by
    rw [getBits, getBitsLoop_succ_run, getBit_run_of_end (Engine.sourceBits_eq_nil.mpr ⟨hcnt, hbytes⟩) hends]
  rw [stepOnce_run, hp]
  simp only [storedStep, EStateM.run_bind, EStateM.run_get, if_neg hrem, hrun]

/-! ### What the copied bytes leave in the stores -/

theorem wrote_foldl_emitted (c : Engine) (bs : List Byte) : c.Wrote bs (bs.foldl Engine.emitted c) := by
  induction bs generalizing c with
  | nil => exact (Engine.Mute.refl c).wrote
  | cons b bs ih => exact (c.wrote_emitted b).trans (ih _)

theorem outFrame_foldl_emitted (c : Engine) (bs : List Byte) : OutFrame c (bs.foldl Engine.emitted c) := by
  induction bs generalizing c with
  | nil => rfl
  | cons b bs ih => exact OutFrame.trans (b := c.emitted b) rfl (ih _)

theorem Engine.copied_pstate (c : Engine) (bs : List Byte) : (c.copied bs).pstate = c.pstate :=
  (congrArg Engine.pstate (outFrame_foldl_emitted c bs) :)

/-- The resident destination holds the emitted bytes in order. -/
theorem read_foldl_emitted (hres : c.latch.ctrl.dstRes = true) (hroom : c.HasRoom bs.length) {k : Nat} (hk : k < bs.length) :
    (bs.foldl Engine.emitted c).mem.read (c.latch.dstBase + c.dstPos + BitVec.ofNat 32 k).toNat = bs[k]? := by
  induction bs generalizing c k with
  | nil => exact absurd hk (Nat.not_lt_zero k)
  | cons b bs ih =>
    have hpos : (c.emitted b).dstPos = c.dstPos + 1 := if_pos hres
    cases k with
    | zero =>
      have haddr : c.latch.dstBase + c.dstPos + BitVec.ofNat 32 0 = c.latch.dstBase + c.dstPos := BitVec.add_zero _
      have hlen := hroom hres
      rw [List.length_cons] at hlen
      have hlim := c.latch.dstLen.isLt
      have hkeep := (wrote_foldl_emitted (c.emitted b) bs).stored.mem (c.latch.dstBase + c.dstPos) fun h => by
        have hlt := h.2
        rw [hpos] at hlt
        change (c.latch.dstBase + c.dstPos - (c.latch.dstBase + (c.dstPos + 1))).toNat < bs.length at hlt
        have hback : c.latch.dstBase + c.dstPos - (c.latch.dstBase + (c.dstPos + 1)) = -1 := by
          rw [← BitVec.add_assoc]
          exact sub_add_cancel_left _ _
        rw [hback] at hlt
        have : (-1 : Word).toNat = 2 ^ 32 - 1 := rfl
        omega
      rw [haddr, List.foldl_cons, hkeep]
      show Cells.read (if c.latch.ctrl.dstRes = true then _ else _) _ = _
      rw [if_pos hres, Cells.read_write_same]
      rfl
    | succ k =>
      have hnext := ih (c := c.emitted b) (k := k) hres (hroom.emitted b) (Nat.lt_of_succ_lt_succ hk)
      rw [hpos] at hnext
      have haddr : c.latch.dstBase + c.dstPos + BitVec.ofNat 32 (k + 1) = c.latch.dstBase + (c.dstPos + 1) + BitVec.ofNat 32 k := by
        rw [Nat.add_comm k, BitVec.ofNat_add, ← BitVec.add_assoc, ← BitVec.add_assoc]
        rfl
      rw [haddr, List.foldl_cons]
      exact hnext
end

/-! ### The statement -/

section
variable {s t : State} {cap : BitVec 26} {bs rest : List Byte}

theorem Engine.Inv.apart {c : Engine} {n : Nat} (hi : c.Inv) (hover : c.latch.overlaps = false) (hacc : c.accepts n) : c.Apart n :=
  ⟨hover, hi.srcPos_le, hacc.hasRoom hi⟩

theorem Engine.accepts.budget_eq {c : Engine} (hacc : c.accepts cap.toNat) : c.budget cap = cap.toNat := by
  unfold Engine.budget
  split
  · exact Nat.min_eq_left (hacc.1 ‹_›).1
  · rfl

/-- `STEP` on bytes that block, source and destinations can take. -/
theorem exec_step_of_copied (hi : s.toEngine.Inv) (hover : s.latch.overlaps = false) (hp : s.pstate = .stored) (hcnt : s.bitcnt = 0)
    (hrem : bs.length ≤ s.srem.toNat) (hbytes : s.toEngine.sourceBytes = bs ++ rest) (hacc : s.toEngine.accepts bs.length)
    (hlen : bs.length = cap.toNat) :
    exec (.step cap) s = .next (s.complete ((s.toEngine.cleared.copied bs).withResult (BitVec.ofNat 32 bs.length))) ∧
      (s.toEngine.cleared.copied bs).sourceBytes = rest := by
  obtain ⟨hend, hrest, -⟩ := stepEnd_of_stored (c := s.toEngine.cleared) (left := 0) (produced := 0) hp hcnt hrem hbytes hacc
    (hi.cleared.apart hover hacc)
  refine ⟨(exec_step_iff (.inl (by rw [hp]; rfl)) (by rfl)).mpr ⟨_, ?_, rfl⟩, hrest⟩
  have hbudget : s.toEngine.budget cap = 0 + bs.length := by
    rw [Nat.zero_add, hlen]
    exact Engine.accepts.budget_eq (hlen ▸ hacc)
  rw [hbudget, hend, Nat.zero_add]
  exact stepEnd_zero _ _

/-- `STEP` on a source that ends inside the block. -/
theorem exec_step_of_stored_end (hi : s.toEngine.Inv) (hover : s.latch.overlaps = false) (hp : s.pstate = .stored) (hcnt : s.bitcnt = 0)
    (hends : s.toEngine.sourceEnds = true) (hrem : s.toEngine.sourceBytes.length < s.srem.toNat)
    (hbudget : s.toEngine.sourceBytes.length < s.toEngine.budget cap) (hacc : s.toEngine.accepts s.toEngine.sourceBytes.length) :
    exec (.step cap) s = .next (s.complete ((s.toEngine.cleared.copied s.toEngine.sourceBytes).ended.takeStepError .srcExhausted
      .sourceExhausted (BitVec.ofNat 32 s.toEngine.sourceBytes.length))) := by
  obtain ⟨left, hleft⟩ := Nat.exists_eq_add_of_lt hbudget
  obtain ⟨hend, hrest, hends'⟩ := stepEnd_of_stored (c := s.toEngine.cleared) (bs := s.toEngine.sourceBytes) (rest := []) (left := left + 1)
    (produced := 0) hp hcnt hrem.le (List.append_nil _).symm hacc (hi.cleared.apart hover hacc)
  refine (exec_step_iff (.inl (by rw [hp]; rfl)) (by rfl)).mpr ⟨_, ?_, rfl⟩
  have hne : (s.toEngine.cleared.copied s.toEngine.sourceBytes).srem ≠ 0 := by
    show s.srem - BitVec.ofNat 16 s.toEngine.sourceBytes.length ≠ 0
    bv_omega
  have hp' : (s.toEngine.cleared.copied s.toEngine.sourceBytes).pstate = .stored := (Engine.copied_pstate _ _).trans hp
  have hpass := stepOnce_run_of_stored_end hp' rfl hne hrest (hends'.trans hends)
  rw [hleft, show s.toEngine.sourceBytes.length + left + 1 = left + 1 + s.toEngine.sourceBytes.length by omega, hend, Nat.zero_add]
  exact stepEnd_of_raise (by rw [hp']; rfl) (Nat.succ_ne_zero left) hpass

/-- The byte after the last of the block: the pass that ends it. -/
theorem ran_stepOnce_of_block_end (hp : s.pstate = .stored) (hrem : s.srem = 0) (r : Word) :
    stepOnce.run (s.toEngine.cleared.withResult r) =
      .ok 0 ((s.toEngine.cleared.noted { pstate := fun _ => s.toEngine.afterBlock }).withResult r) := by
  have hp' : (s.toEngine.cleared.withResult r).pstate = .stored := hp
  have hrem' : (s.toEngine.cleared.withResult r).srem = 0 := hrem
  rw [stepOnce_run, hp']
  simp only [storedStep, EStateM.run_bind, EStateM.run_get, hrem', if_true]
  rfl

/-- A pass after its byte has been taken. -/
def storedTail (v : Word) : Cmd Nat :=
  emit (v.setWidth 8) >>= fun _ => (modify fun c => { c with srem := c.srem - 1 }) >>= fun _ => pure 1

theorem storedStep_run {c : Engine} (hrem : c.srem ≠ 0) : storedStep.run c = (getBits 8 >>= storedTail).run c := by
  simp only [storedStep, EStateM.run_bind, EStateM.run_get, if_neg hrem]
  rfl

/-- One byte of a stored block in every alignment: a `GETBITS 8` and a `PUT`. -/
theorem ran_stepOnce_of_stored {v : Word} {u : State} (hp : s.pstate = .stored) (hrem : s.srem ≠ 0) (hget : Ran (getBits 8) s v t)
    (hemit : Ran (emit (v.setWidth 8)) t () u) : Ran stepOnce s 1 (u.noted { srem := (· - 1) }) := by
  have hnote : Ran (modify fun c : Engine => { c with srem := c.srem - 1 }) u ⟨⟩ (u.noted { srem := (· - 1) }) :=
    hemit.settled.ran_note (n := fun _ => { srem := (· - 1) }) (fun _ _ => rfl) fun _ => rfl
  obtain ⟨c, hrun, hrest⟩ := Ran.bind (f := storedTail) hget (hemit.bind (hnote.bind (hnote.settled.ran_pure 1)))
  refine ⟨c, fun r => ?_, hrest⟩
  have hp' : (s.toEngine.cleared.withResult r).pstate = .stored := hp
  have hrem' : (s.toEngine.cleared.withResult r).srem ≠ 0 := hrem
  rw [← hrun r, stepOnce_run, hp']
  exact storedStep_run hrem'

theorem raised_stepOnce_of_stored {e : Err} (hp : s.pstate = .stored) (hrem : s.srem ≠ 0) (hget : Raised (getBits 8) s e t) :
    Raised stepOnce s e t := by
  obtain ⟨c, hrun, ht⟩ := hget
  refine ⟨c, fun r => ?_, ht⟩
  have hp' : (s.toEngine.cleared.withResult r).pstate = .stored := hp
  have hrem' : (s.toEngine.cleared.withResult r).srem ≠ 0 := hrem
  rw [stepOnce_run, hp']
  exact (storedStep_run hrem').trans (by rw [EStateM.run_bind, hrun r])

/-- `GETBITS` reads no `SREM`. -/
theorem Ran.srem_getBits {n : Nat} {v : Word} (h : Ran (getBits n) s v t) : t.srem = s.srem := by
  obtain ⟨c, hrun, -, r, rfl⟩ := h
  have hc := getBits_frame n (s.toEngine.cleared.withResult s.result)
  rw [Cmd.after_of_ok (hrun s.result), BitFrame] at hc
  exact (congrArg Engine.srem hc :)

theorem Ran.srem_emit {b : Byte} (h : Ran (emit b) s () t) : t.srem = s.srem := by
  obtain ⟨c, hrun, -, r, rfl⟩ := h
  exact (congrArg Engine.srem (emit_eq_ok (hrun s.result)) :)

theorem pushedBytes_flatMap (pull : Bool) (bs : List Byte) :
    pushedBytes (bs.flatMap fun b => (if pull then [.pull (.byte b)] else []) ++ (if true then [.push b] else [])) = bs := by
  induction bs with
  | nil => rfl
  | cons b bs ih =>
    rw [List.flatMap_cons, pushedBytes_append, ih]
    cases pull <;> rfl

/-- The copied bytes written out, as a command that reports no error leaves them. -/
theorem Engine.copied_cleared (c : Engine) (bs : List Byte) : c.cleared.copied bs = { bs.foldl Engine.emitted c with
    bitacc := if bs = [] then c.bitacc else 0, bitcnt := 0, srcPos := c.srcPos + BitVec.ofNat 32 bs.length
    srem := c.srem - BitVec.ofNat 16 bs.length, err := .none, ports := c.ports.copied c.latch.ctrl.srcPull c.latch.ctrl.dstPush bs } := by
  rw [Engine.copied, foldl_emitted_cleared]
  rfl

/-- The end of the source behind the copied bytes. -/
theorem Engine.ended_of_copied {d : Engine} {pull push : Bool} {p : Ports} {bs : List Byte} (hpull : d.latch.ctrl.srcPull = pull)
    (hports : d.ports = p.copied pull push bs) : d.ended = { d with ports := { p with
      pullQ := if pull then p.pullQ.drop (bs.length + 1) else p.pullQ
      pullEnded := pull || p.pullEnded
      pushReady := if push then p.pushReady - bs.length else p.pushReady
      log := p.log ++ (bs.flatMap fun b => (if pull then [.pull (.byte b)] else []) ++ (if push then [.push b] else []))
        ++ (if pull then [.pull .eof] else []) } } := by
  rw [Engine.ended, hports, hpull]
  cases pull <;> simp [Ports.copied]

/-- Settles O39: a pass takes one byte and emits it, and the end of the block and the end of the source are passes of their own. -/
theorem stepCopiesStoredBytes : Obligations.StepCopiesStoredBytes := by
  refine ⟨fun s cap hi hover hp hcnt hrem hbytes hacc => ?_, fun s cap hi hover hp hcnt hends hrem hbudget hacc => ?_,
    fun s t cap hp hrem hget => ⟨fun hok u hput hoku => ?_, fun hbudget herr => ?_⟩, fun s cap hp hrem hbudget => ?_⟩
  · have hlen : (s.toEngine.sourceBytes.take cap.toNat).length = cap.toNat := List.length_take_of_le hbytes
    have hsplit := (List.take_append_drop cap.toNat s.toEngine.sourceBytes).symm
    have hget (k : Nat) (hk : k < cap.toNat) : (s.toEngine.sourceBytes.take cap.toNat)[k]? = s.toEngine.sourceBytes[k]? :=
      List.getElem?_take_of_lt hk
    dsimp only
    generalize s.toEngine.sourceBytes.take cap.toNat = bs at hlen hsplit hget ⊢
    obtain ⟨hrun, hrest⟩ := exec_step_of_copied hi hover hp hcnt (hlen ▸ hrem) hsplit (hlen ▸ hacc) hlen
    have hwrote := wrote_foldl_emitted s.toEngine bs
    have hnil : bs = [] ↔ cap = 0 := by
      rw [← List.length_eq_zero_iff, hlen]
      exact ⟨fun h => BitVec.eq_of_toNat_eq h, fun h => congrArg BitVec.toNat h⟩
    have hwide : BitVec.ofNat 32 bs.length = cap.setWidth 32 := by rw [hlen]; bv_omega
    have hnat : (cap.setWidth 32).toNat = cap.toNat := BitVec.toNat_setWidth_of_le (by decide)
    have hroom : s.toEngine.HasRoom bs.length := Engine.accepts.hasRoom (hlen ▸ hacc) hi
    have hcopied := s.toEngine.copied_cleared bs
    rw [hcopied, if_congr hnil rfl rfl] at hrun
    rw [hcopied] at hrest
    rw [← hlen] at hget hrem ⊢
    refine ⟨_, hrun, ⟨rfl, rfl⟩, ?_, ?_, ?_, ?_, ?_, hwrote.ckState, hwrote.outCount, fun hres => ⟨?_, fun k hk => ?_⟩,
      hwrote.stored.mem, fun hpush => ?_⟩
    · rw [← hwide]
      rfl
    · exact (congrArg Engine.pstate (outFrame_foldl_emitted s.toEngine bs) :).trans hp
    · exact (congrArg BitVec.toNat hwide).trans (hnat.trans hlen.symm)
    · show (s.srem - BitVec.ofNat 16 bs.length).toNat = _
      bv_omega
    · exact hrest.trans (congrArg (List.drop · _) hlen.symm)
    · have hpos := hwrote.stored.dstPos
      rw [if_pos hres] at hpos
      show (bs.foldl Engine.emitted s.toEngine).dstPos.toNat = _
      rw [hpos]
      have hfits := hroom hres
      have hlim := s.latch.dstLen.isLt
      bv_omega
    · exact (read_foldl_emitted hres hroom hk).trans (hget k hk)
    · show pushedBytes (s.ports.log ++ bs.flatMap fun b => _ ++ if s.latch.ctrl.dstPush = true then _ else _) = _
      rw [pushedBytes_append, hpush, pushedBytes_flatMap]
  · have hrun := exec_step_of_stored_end hi hover hp hcnt hends hrem hbudget hacc
    have hheld : s.bitacc = 0 := by
      have hlt := hi.bitacc_lt
      rw [hcnt] at hlt
      exact BitVec.eq_of_toNat_eq (Nat.lt_one_iff.mp hlt)
    have hlatch := (wrote_foldl_emitted s.toEngine.cleared s.toEngine.sourceBytes).stored.latch
    have hended := Engine.ended_of_copied (d := s.toEngine.cleared.copied s.toEngine.sourceBytes) (congrArg (·.ctrl.srcPull) hlatch) rfl
    rw [hended, Engine.copied_cleared, hheld, ite_self] at hrun
    exact hrun
  · have hactive : s.pstate.active = true := by rw [hp]; rfl
    have hidle : s.pstate ≠ .idle := PState.ne_of_active hactive rfl
    have hran := ran_getBits hidle (by decide) hget hok
    obtain ⟨hemit, hroom⟩ := ran_emit hput hoku
    have hsame := hran.sameStream (getBits_frame _)
    rw [hsame.latch, hsame.dstPos] at hroom
    have hone := Engine.budget_one hroom
    have hend := (ran_stepOnce_of_stored hp hrem hran hemit).step_end hactive (by omega) (.inr hone)
    have hkeep : u.srem = s.srem := hemit.srem_emit.trans hran.srem_getBits
    rw [← hkeep]
    exact hend
  · have hactive : s.pstate.active = true := by rw [hp]; rfl
    have hidle : s.pstate ≠ .idle := PState.ne_of_active hactive rfl
    have hraised := raised_getBits hidle (by decide) hget (by rw [herr]; decide)
    rw [(raised_stepOnce_of_stored hp hrem hraised).step hactive hbudget, State.stepFailed_of_exhausted herr]
  · have hactive : s.pstate.active = true := by rw [hp]; rfl
    have hpass := ran_stepOnce_of_block_end hp hrem
    rw [Engine.afterBlock] at hpass
    refine ⟨fun hb w hw => ?_, fun hb htr => ?_, fun hb htr w hw => ?_⟩
    · rw [hb, if_neg Bool.false_ne_true] at hpass
      exact exec_step_of_move hactive hbudget hpass hw
    · rw [hb, if_pos rfl, if_pos htr] at hpass
      have hran : Ran stepOnce s 0 _ := ⟨_, hpass, rfl, s.result, rfl⟩
      exact hran.step_end hactive hbudget (.inl rfl)
    · rw [hb, if_pos rfl, if_neg htr] at hpass
      exact exec_step_of_move hactive hbudget hpass hw
end

end Sys2Proof.Machine
end

section
/-! SUPPORT. The dynamic block header (44_inflate.md R228): what a header that was read has changed, and the bits that spell one, read
whole or cut short. At the end the settled statement. -/

namespace Sys2Proof.Machine

/-! ### What reading a header changes -/

/-- Between `c` and `c'` only the bit reader, `LEN` and the pull port have changed, and the source has not ended. -/
def LensFrame (c c' : Engine) : Prop :=
  c' = { c with
    bitacc := c'.bitacc, bitcnt := c'.bitcnt, srcPos := c'.srcPos, len := c'.len
    ports := { c.ports with pullQ := c'.ports.pullQ, log := c'.ports.log } }

theorem LensFrame.trans {a b c : Engine} (h : LensFrame a b) (h' : LensFrame b c) : LensFrame a c := by
  unfold LensFrame at *
  rw [h] at h'
  exact h'

theorem buildTree_eq_ok {s : Slot} {ls : List (BitVec 4)} {c c' : Engine} (h : (buildTree s ls).run c = .ok () c') :
    kraftSum ls ≤ 2 ^ 15 ∧ c' = c.setTree s (builtTree (c.tree s) ls) := by
  rw [buildTree_run] at h
  split at h
  · cases h
  · next hvalid =>
    cases h
    exact ⟨Nat.not_lt.mp ((overSubscribed_iff ls).not.mp hvalid), rfl⟩

/-- Where a piece returns, the source goes on to the same end and has not come to it. -/
structure Cmd.KeepsEnd {α : Type} (x : Cmd α) : Prop where
  of_ok : ∀ {c c' : Engine} {a : α}, x.run c = .ok a c' → c'.sourceEnds = c.sourceEnds ∧ c'.ports.pullEnded = c.ports.pullEnded

theorem closed_keepsEnd : Cmd.Closed fun _ x => x.KeepsEnd where
  pure a := ⟨fun h => by
    cases h
    exact ⟨rfl, rfl⟩⟩
  bind hx hf := ⟨fun h => by
    obtain ⟨a, c₁, h₁, h₂⟩ := Cmd.bind_eq_ok h
    obtain ⟨hend, hended⟩ := hx.of_ok h₁
    obtain ⟨hend', hended'⟩ := (hf a).of_ok h₂
    exact ⟨hend'.trans hend, hended'.trans hended⟩⟩
  stop _ := ⟨fun h => by cases h⟩
  get_bind _ hf := ⟨fun {c _ _} h => (hf c).of_ok h⟩
  getBit := ⟨fun h => by
    obtain ⟨c₁, hrun, -, htook⟩ := getBit_run_of_sourceBits (getBit_eq_ok h)
    cases hrun.symm.trans h
    exact ⟨(getBit_sameEnd h).ends, (congrArg (·.ports.pullEnded) htook.frame :)⟩⟩
  alignBits := ⟨fun h => by
    cases h
    exact ⟨rfl, rfl⟩⟩
  lenWrite _ _ := ⟨fun h => by
    cases h
    exact ⟨rfl, rfl⟩⟩
  buildTree s ls := ⟨fun h => by
    obtain ⟨-, rfl⟩ := buildTree_eq_ok h
    cases s <;> exact ⟨rfl, rfl⟩⟩
  readDest pos := ⟨fun h => by
    rw [readDest_run] at h
    split at h
    · cases h
    · cases h
      exact ⟨rfl, rfl⟩⟩

/-- A piece that changes only the bit reader, `LEN` and the pull port where it returns. -/
structure Cmd.LensOnly {α : Type} (x : Cmd α) : Prop where
  of_ok : ∀ {c c' : Engine} {a : α}, x.run c = .ok a c' → LensFrame c c'

section
variable {α β : Type} {x : Cmd α} {f : α → Cmd β}

theorem Cmd.LensOnly.bind (hx : x.LensOnly) (hf : ∀ a, (f a).LensOnly) : (x >>= f).LensOnly := ⟨fun h => by
  obtain ⟨a, c₁, h₁, h₂⟩ := Cmd.bind_eq_ok h
  exact (hx.of_ok h₁).trans ((hf a).of_ok h₂)⟩

theorem lensOnly_pure (a : α) : (pure a : Cmd α).LensOnly := ⟨fun h => by
  cases h
  exact rfl⟩

theorem lensOnly_raise (e : Err) : (raise e : Cmd α).LensOnly := ⟨fun h => by cases h⟩

/-- A piece that keeps to the bit reader. -/
theorem lensOnly_of_bitFrame (hframe : ∀ c, BitFrame c (x.after c)) (hends : x.KeepsEnd) : x.LensOnly := ⟨fun {c c' a} h => by
  have hc := hframe c
  rw [Cmd.after_of_ok h, BitFrame, (hends.of_ok h).2] at hc
  rw [LensFrame, hc]⟩

theorem lensOnly_getBits (n : Nat) : (getBits n).LensOnly := lensOnly_of_bitFrame (getBits_frame n) (closed_keepsEnd.getBits n)

theorem lensOnly_lenWrite (i : Nat) (v : BitVec 4) : (lenWrite i v).LensOnly := ⟨fun h => by
  cases h
  exact rfl⟩

theorem lensOnly_fillLens (v : BitVec 4) (i k : Nat) : (fillLens v i k).LensOnly := by
  induction k generalizing i with
  | zero => exact lensOnly_pure ()
  | succ k ih => exact (lensOnly_lenWrite i v).bind fun _ => ih _

theorem lensOnly_readCodeLens (places : List Nat) : (readCodeLens places).LensOnly := by
  induction places with
  | nil => exact lensOnly_pure ()
  | cons p rest ih => exact (lensOnly_getBits 3).bind fun v => (lensOnly_lenWrite p _).bind fun _ => ih

theorem lensOnly_require (ok : Bool) (e : Err) : (require ok e).LensOnly := by
  unfold require
  split
  · exact lensOnly_pure ()
  · exact lensOnly_raise e

theorem lensOnly_lenRead (i : Nat) : (lenRead i).LensOnly := ⟨fun {c c' a} h => by
  rw [lenRead_run] at h
  cases hv : c.len.read i <;> rw [hv] at h <;> cases h
  exact rfl⟩

theorem lensOnly_repeatCode (sym num : Nat) : (repeatCode sym num).LensOnly := by
  unfold repeatCode
  split
  · split
    · exact lensOnly_raise _
    · exact (lensOnly_lenRead _).bind fun v => (lensOnly_getBits 2).bind fun r => lensOnly_pure _
  · split
    · exact (lensOnly_getBits 3).bind fun r => lensOnly_pure _
    · exact (lensOnly_getBits 7).bind fun r => lensOnly_pure _

theorem lensOnly_readLengths (total passes num : Nat) : (readLengths total passes num).LensOnly := by
  induction passes generalizing num with
  | zero => exact lensOnly_pure ()
  | succ k ih =>
    unfold readLengths
    split
    · refine (lensOnly_of_bitFrame (decodeSymbol_frame .ct) (closed_keepsEnd.decodeSymbol .ct)).bind fun sym => ?_
      split
      · exact (lensOnly_lenWrite num _).bind fun _ => ih _
      · exact (lensOnly_repeatCode _ num).bind fun r => (lensOnly_require _ _).bind fun _ => (lensOnly_fillLens _ _ _).bind fun _ => ih _
    · exact lensOnly_pure ()
end

/-! ### The pieces of the header -/

/-- The two trees built from the lengths that have been read. -/
def treesTail (hlit hdist : Nat) : Cmd Unit :=
  readLens 0 hlit >>= fun ll => buildTree .lt ll >>= fun _ => readLens hlit hdist >>= fun dl => buildTree .dt dl

/-- The header behind the code-length lengths. -/
def codesTail (hlit hdist : Nat) : Cmd Unit :=
  readLens 0 19 >>= fun cl => buildTree .ct cl >>= fun _ => readLengths (hlit + hdist) (hlit + hdist) 0 >>= fun _ => treesTail hlit hdist

/-- The header behind the three counts. -/
def countsTail (hlit hdist hclen : Nat) : Cmd Unit :=
  require (decide (hlit ≤ 286) && decide (hdist ≤ 30)) .badCounts >>= fun _ => fillLens 0 0 19 >>= fun _ =>
    readCodeLens (lenPerm.take hclen) >>= fun _ => codesTail hlit hdist

theorem dynamicHeader_eq : dynamicHeader = getBits 5 >>= fun a => getBits 5 >>= fun b => getBits 4 >>= fun d =>
    countsTail (a.toNat + 257) (b.toNat + 1) (d.toNat + 4) := rfl

/-- Whenever the two trees are built, they are those of the lengths in `LEN`. -/
theorem treesTail_eq_ok {hlit hdist : Nat} {c c' : Engine} (h : (treesTail hlit hdist).run c = .ok () c') :
    ∃ ll dl : List (BitVec 4), ll.length = hlit ∧ dl.length = hdist ∧ (∀ k, k < hlit → c.len.read k = ll[k]?) ∧
      (∀ k, k < hdist → c.len.read (hlit + k) = dl[k]?) ∧ kraftSum ll ≤ 2 ^ 15 ∧ kraftSum dl ≤ 2 ^ 15 ∧
      c' = { c with lt := builtTree c.lt ll, dt := builtTree c.dt dl } := by
  obtain ⟨ll, c₁, hll, h⟩ := Cmd.bind_eq_ok h
  obtain ⟨_, c₂, hlt, h⟩ := Cmd.bind_eq_ok h
  obtain ⟨dl, c₃, hdl, hdt⟩ := Cmd.bind_eq_ok h
  obtain ⟨rfl, hlen, hread⟩ := readLens_eq_ok hll
  obtain ⟨hkraft, rfl⟩ := buildTree_eq_ok hlt
  obtain ⟨rfl, hlen', hread'⟩ := readLens_eq_ok hdl
  obtain ⟨hkraft', rfl⟩ := buildTree_eq_ok hdt
  exact ⟨ll, dl, hlen, hlen', by simpa using hread, hread', hkraft, hkraft', rfl⟩

/-- What a header that was read without error leaves. -/
theorem dynamicHeader_eq_ok {c c' : Engine} (h : dynamicHeader.run c = .ok () c') :
    ∃ ll dl : List (BitVec 4),
      257 ≤ ll.length ∧ ll.length ≤ 286 ∧ 1 ≤ dl.length ∧ dl.length ≤ 30 ∧
      (∀ k, k < ll.length → c'.len.read k = ll[k]?) ∧
      (∀ k, k < dl.length → c'.len.read (ll.length + k) = dl[k]?) ∧
      kraftSum ll ≤ 2 ^ 15 ∧ kraftSum dl ≤ 2 ^ 15 ∧
      c'.lt = builtTree c.lt ll ∧ c'.dt = builtTree c.dt dl ∧ c'.ct.valid = true ∧
      c' = { c with
        bitacc := c'.bitacc, bitcnt := c'.bitcnt, srcPos := c'.srcPos, len := c'.len, lt := c'.lt, dt := c'.dt, ct := c'.ct
        ports := { c.ports with pullQ := c'.ports.pullQ, log := c'.ports.log } } := by
  obtain ⟨a, c₁, ha, h⟩ := Cmd.bind_eq_ok h
  obtain ⟨b, c₂, hb, h⟩ := Cmd.bind_eq_ok h
  obtain ⟨d, c₃, hd, h⟩ := Cmd.bind_eq_ok h
  obtain ⟨_, c₄, hcounts, h⟩ := Cmd.bind_eq_ok h
  obtain ⟨_, c₅, hfill, h⟩ := Cmd.bind_eq_ok h
  obtain ⟨_, c₆, hcodes, h⟩ := Cmd.bind_eq_ok h
  obtain ⟨cl, c₇, hcl, h⟩ := Cmd.bind_eq_ok h
  obtain ⟨_, c₈, hct, h⟩ := Cmd.bind_eq_ok h
  obtain ⟨_, c₉, hlengths, h⟩ := Cmd.bind_eq_ok h
  have hbounds := require_eq_ok hcounts
  simp only [Bool.and_eq_true, decide_eq_true_eq] at hbounds
  obtain ⟨ll, dl, hlen, hlen', hread, hread', hkraft, hkraft', rfl⟩ := treesTail_eq_ok h
  obtain ⟨rfl, -⟩ := readLens_eq_ok hcl
  obtain ⟨-, rfl⟩ := buildTree_eq_ok hct
  have hbefore : LensFrame c c₇ := ((lensOnly_getBits 5).of_ok ha).trans <| ((lensOnly_getBits 5).of_ok hb).trans <|
    ((lensOnly_getBits 4).of_ok hd).trans <| ((lensOnly_require _ _).of_ok hcounts).trans <| ((lensOnly_fillLens _ _ _).of_ok hfill).trans
      ((lensOnly_readCodeLens _).of_ok hcodes)
  have hafter := (lensOnly_readLengths _ _ _).of_ok hlengths
  rw [LensFrame] at hbefore hafter
  have hlt : c₉.lt = c.lt := by
    rw [hafter, hbefore]
    rfl
  have hdt : c₉.dt = c.dt := by
    rw [hafter, hbefore]
    rfl
  refine ⟨ll, dl, by omega, by omega, by omega, by omega, fun k hk => hread k (hlen ▸ hk), fun k hk => ?_, hkraft, hkraft',
    by rw [hlt], by rw [hdt], ?_, ?_⟩
  · rw [hlen]
    exact hread' k (hlen' ▸ hk)
  · show c₉.ct.valid = true
    rw [hafter]
    rfl
  · rw [hbefore] at hafter
    rw [hafter]
    rfl

/-! ### Bits that spell a piece, whole or cut short -/

/-- What the bits of a header in front of the trees leave as it is. -/
structure Engine.Ahead (c c' : Engine) : Prop where
  lt : c'.lt = c.lt
  dt : c'.dt = c.dt
  ends : c'.sourceEnds = c.sourceEnds

theorem Engine.Ahead.trans {a b c : Engine} (h : a.Ahead b) (h' : b.Ahead c) : a.Ahead c :=
  ⟨h'.lt.trans h.lt, h'.dt.trans h.dt, h'.ends.trans h.ends⟩

/-- From `c` the piece `x` takes `bits` and goes on as `y` from a state with `Q`; on a source that ends inside `bits` it raises
`SRC_EXHAUSTED`. -/
structure Cmd.Reads {α : Type} (x y : Cmd α) (bits : List Bool) (Q : Engine → Prop) (c : Engine) : Prop where
  full : ∀ {rest}, c.sourceBits = bits ++ rest → ∃ c', x.run c = y.run c' ∧ c'.sourceBits = rest ∧ c.Ahead c' ∧ Q c'
  short : c.sourceBits <+: bits → c.sourceBits ≠ bits → c.sourceEnds = true →
    ∃ c', x.run c = .error (.raise .srcExhausted) c' ∧ c'.lt = c.lt ∧ c'.dt = c.dt

section
variable {α β : Type} {x y z : Cmd α} {f : α → Cmd β} {a : α} {bits more : List Bool} {P Q : Engine → Prop} {c c' : Engine}

theorem Cmd.Reads.trans (h : x.Reads y bits P c) (h' : ∀ c', P c' → y.Reads z more Q c') : x.Reads z (bits ++ more) Q c where
  full hbits := by
    rw [List.append_assoc] at hbits
    obtain ⟨c₁, hrun, hrest, hahead, hP⟩ := h.full hbits
    obtain ⟨c₂, hrun', hrest', hahead', hQ⟩ := (h' c₁ hP).full hrest
    exact ⟨c₂, hrun.trans hrun', hrest', hahead.trans hahead', hQ⟩
  short hle hne hend := by
    by_cases hfirst : bits <+: c.sourceBits
    · obtain ⟨rest, hrest⟩ := hfirst
      rw [← hrest, List.prefix_append_right_inj] at hle
      obtain ⟨c₁, hrun, hrest₁, hahead, hP⟩ := h.full hrest.symm
      have hne' : c₁.sourceBits ≠ more := fun heq => hne (by rw [← hrest, ← hrest₁, heq])
      obtain ⟨c₂, hrun', hlt, hdt⟩ := (h' c₁ hP).short (hrest₁ ▸ hle) hne' (hahead.ends.trans hend)
      exact ⟨c₂, hrun.trans hrun', hlt.trans hahead.lt, hdt.trans hahead.dt⟩
    · have hpre := (List.prefix_or_prefix_of_prefix hle (List.prefix_append bits more)).resolve_right hfirst
      exact h.short hpre (fun heq => hfirst (heq ▸ List.prefix_refl _)) hend

theorem Cmd.Reads.mono {P Q : Engine → Prop} (h : x.Reads y bits P c) (hQ : ∀ c', P c' → Q c') : x.Reads y bits Q c where
  full hbits := by
    obtain ⟨c₁, hrun, hrest, hahead, hP⟩ := h.full hbits
    exact ⟨c₁, hrun, hrest, hahead, hQ c₁ hP⟩
  short := h.short

/-- Code that takes no bits. -/
theorem Cmd.Reads.of_run_eq (hrun : x.run c = y.run c') (hbits : c'.sourceBits = c.sourceBits) (hahead : c.Ahead c') (hQ : Q c') :
    x.Reads y [] Q c where
  full h := ⟨c', hrun, hbits.trans h, hahead, hQ⟩
  short hle hne := absurd (List.prefix_nil.mp hle) hne

theorem Cmd.Reads.bind (h : x.Reads (pure a) bits Q c) (f : α → Cmd β) : (x >>= f).Reads (f a) bits Q c where
  full hbits := by
    obtain ⟨c₁, hrun, hrest⟩ := h.full hbits
    exact ⟨c₁, by rw [EStateM.run_bind, hrun]; rfl, hrest⟩
  short hle hne hend := by
    obtain ⟨c₁, hrun, hrest⟩ := h.short hle hne hend
    exact ⟨c₁, by rw [EStateM.run_bind, hrun], hrest⟩

theorem Cmd.Reads.bind_left (h : x.Reads y bits Q c) (f : α → Cmd β) : (x >>= f).Reads (y >>= f) bits Q c where
  full hbits := by
    obtain ⟨c₁, hrun, hrest⟩ := h.full hbits
    exact ⟨c₁, by rw [EStateM.run_bind, EStateM.run_bind, hrun], hrest⟩
  short hle hne hend := by
    obtain ⟨c₁, hrun, hrest⟩ := h.short hle hne hend
    exact ⟨c₁, by rw [EStateM.run_bind, hrun], hrest⟩

/-- `LEN` and `CT` are as they were. -/
structure Engine.SameCodes (c c' : Engine) : Prop where
  len : c'.len = c.len
  ct : c'.ct = c.ct

theorem Engine.SameCodes.trans {a b c : Engine} (h : a.SameCodes b) (h' : b.SameCodes c) : a.SameCodes c :=
  ⟨h'.len.trans h.len, h'.ct.trans h.ct⟩

/-- A piece that keeps to the bit reader. -/
theorem reads_of_bitFrame (hframe : ∀ c, BitFrame c (x.after c)) (hends : x.KeepsEnd)
    (hfull : ∀ {rest}, c.sourceBits = bits ++ rest → ∃ c', x.run c = .ok a c' ∧ c'.sourceBits = rest)
    (hshort : c.sourceBits <+: bits → c.sourceBits ≠ bits → c.sourceEnds = true → x.Exhausts c) :
    x.Reads (pure a) bits c.SameCodes c where
  full hbits := by
    obtain ⟨c₁, hrun, hrest⟩ := hfull hbits
    have hc := hframe c
    rw [Cmd.after_of_ok hrun, BitFrame] at hc
    exact ⟨c₁, hrun, hrest, ⟨(congrArg Engine.lt hc :), (congrArg Engine.dt hc :), (hends.of_ok hrun).1⟩,
      (congrArg Engine.len hc :), (congrArg Engine.ct hc :)⟩
  short hle hne hend := by
    obtain ⟨c₁, hrun, -⟩ := hshort hle hne hend
    have hc := hframe c
    rw [Cmd.after_of_error hrun, BitFrame] at hc
    exact ⟨c₁, hrun, (congrArg Engine.lt hc :), (congrArg Engine.dt hc :)⟩

theorem length_fieldBits {n : Nat} (v : BitVec n) : (fieldBits v).length = n := by simp [fieldBits]

theorem bitsWord_fieldBits {n : Nat} (v : BitVec n) : bitsWord (fieldBits v) = v.setWidth 32 := by
  refine BitVec.eq_of_getLsbD_eq fun i hi => ?_
  rw [getLsbD_bitsWord, BitVec.getLsbD_setWidth, fieldBits]
  rcases Nat.lt_or_ge i n with h | h
  · simp [h]
  · simp [h, BitVec.getLsbD_of_ge]

theorem length_lt_of_prefix (h : more <+: bits) (hne : more ≠ bits) : more.length < bits.length :=
  lt_of_le_of_ne h.length_le fun heq => hne (h.eq_of_length heq)

/-- A field of a header. -/
theorem reads_getBits {n : Nat} (v : BitVec n) (c : Engine) : (getBits n).Reads (pure (v.setWidth 32)) (fieldBits v) c.SameCodes c := by
  refine reads_of_bitFrame (getBits_frame n) (closed_keepsEnd.getBits n) (fun hbits => ?_) fun hle hne hend => ?_
  · obtain ⟨c₁, hrun, hrest, -⟩ := getBits_run_of_sourceBits hbits
    rw [length_fieldBits, bitsWord_fieldBits] at hrun
    exact ⟨c₁, hrun, hrest⟩
  · have hlt := length_lt_of_prefix hle hne
    rw [length_fieldBits] at hlt
    exact exhausts_getBits hlt hend
end

/-- A code cut short: the bits read so far lie past every code of their length, and the source ends. -/
theorem exhausts_decodeLoop_of_code {sl : Slot} {t : Tree} {ls : List (BitVec 4)} {i : Nat} (ht : t.Canonical ls) (k : Nat) {l m : Nat}
    (hl : 1 ≤ l) (hlm : l + m = (ls.getD i 0).toNat) {c : Engine} (hbits : c.sourceBits <+: lowBits (symbolCode ls i) (m + 1))
    (hlen : c.sourceBits.length ≤ m) (hend : c.sourceEnds = true) :
    (decodeLoop sl t (k + m + 1) l (symbolCode ls i / 2 ^ (m + 1)) (firstCode ls l) (baseIndex ls l)).Exhausts c := by
  induction m generalizing l c with
  | zero => exact (exhausts_getBit (List.length_eq_zero_iff.mp (Nat.le_zero.mp hlen)) hend).bind _
  | succ m ih =>
    cases hfront : c.sourceBits with
    | nil => exact (exhausts_getBit hfront hend).bind _
    | cons b rest =>
      rw [hfront, lowBits_succ, List.cons_prefix_cons] at hbits
      obtain ⟨rfl, hbits⟩ := hbits
      obtain ⟨c₁, hbit, hrest, -⟩ := getBit_run_of_sourceBits hfront
      obtain ⟨n, hn, hcount⟩ := Option.map_eq_some_iff.mp (ht.count l hl (by omega))
      have hpast : firstCode ls l + lengthCount ls l ≤ symbolCode ls i / 2 ^ (m + 1) := by
        rw [Nat.le_div_iff_mul_le (Nat.two_pow_pos _)]
        refine (shiftedCodes_le_firstCode hl m).trans ?_
        rw [show l + m + 1 = (ls.getD i 0).toNat from hlm]
        exact Nat.le_add_right _ _
      have hno : ¬ symbolCode ls i / 2 ^ (m + 1) - firstCode ls l < n.toNat := by omega
      have hsame := getBit_sameEnd hbit
      rw [hfront, List.length_cons] at hlen
      obtain ⟨c₂, hrun, hc₂⟩ := ih (c := c₁) (l := l + 1) (by omega) (by omega) (hrest ▸ hbits) (by rw [hrest]; omega)
        (hsame.ends.trans hend)
      refine ⟨c₂, ?_, fun hb => (hc₂ (getBit_bounded hbit hb)).trans hsame.drained⟩
      rw [firstCode_succ hl, baseIndex_succ hl, ← hcount] at hrun
      rw [← Nat.add_assoc, decodeLoop_succ_run, hbit]
      simp only [hn, two_mul_div_add_testBit, if_neg hno, hrun]

theorem exhausts_decodeSymbol_of_code {sl : Slot} {ls : List (BitVec 4)} {i : Nat} {c : Engine} (ht : (c.tree sl).Canonical ls)
    (hkraft : kraftSum ls ≤ 2 ^ 15) (hi : ls.getD i 0 ≠ 0) (hle : c.sourceBits <+: codeBits ls i) (hne : c.sourceBits ≠ codeBits ls i)
    (hend : c.sourceEnds = true) : (decodeSymbol sl).Exhausts c := by
  obtain ⟨m, hm⟩ := Nat.exists_eq_add_of_le (one_le_length_of_coded hi)
  obtain ⟨k, hk⟩ := Nat.exists_eq_add_of_le' (Nat.le_of_lt_succ (ls.getD i 0).isLt)
  have hlen := length_lt_of_prefix hle hne
  have hlow (v n : Nat) : (lowBits v n).length = n := by simp [lowBits]
  rw [codeBits_eq, hm, Nat.add_comm 1 m] at hle hlen
  rw [hlow] at hlen
  have hloop := exhausts_decodeLoop_of_code (sl := sl) ht k le_rfl hm.symm hle (Nat.le_of_lt_succ hlen) hend
  have hstart : symbolCode ls i / 2 ^ (m + 1) = 0 := by
    rw [Nat.add_comm, ← hm]
    exact Nat.div_eq_of_lt (symbolCode_lt hkraft hi)
  rw [hstart] at hloop
  obtain ⟨c', hrun, hc'⟩ := hloop
  have hfuel : Config.maxBits = k + m + 1 := by
    rw [Config.maxBits]
    omega
  refine ⟨c', (decodeSymbol_run_of_valid ht.valid).trans ?_, hc'⟩
  rw [hfuel]
  exact hrun

/-- The canonical code of a symbol of the code-length codes. -/
theorem reads_decodeSymbol {cl : List (BitVec 4)} {i : Nat} {c : Engine} (ht : c.ct.Canonical cl) (hkraft : kraftSum cl ≤ 2 ^ 15)
    (hi : cl.getD i 0 ≠ 0) : (decodeSymbol .ct).Reads (pure (BitVec.ofNat 9 i)) (codeBits cl i) c.SameCodes c := by
  refine reads_of_bitFrame (decodeSymbol_frame .ct) (closed_keepsEnd.decodeSymbol .ct) (fun hbits => ?_)
    (exhausts_decodeSymbol_of_code (sl := .ct) ht hkraft hi)
  obtain ⟨sym, c₁, hrun, rfl, hrest, -⟩ := decodeSymbol_run_of_code (sl := .ct) ht hkraft hi hbits
  exact ⟨c₁, by rw [hrun, BitVec.ofNat_toNat, BitVec.setWidth_eq], hrest⟩

/-! ### The counts and the code-length lengths -/

/-- The counts of a header. -/
theorem reads_counts (hlit hdist : BitVec 5) (hclen : BitVec 4) (c : Engine) :
    dynamicHeader.Reads (countsTail (hlit.toNat + 257) (hdist.toNat + 1) (hclen.toNat + 4))
      (fieldBits hlit ++ fieldBits hdist ++ fieldBits hclen) c.SameCodes c := by
  have htail : countsTail ((hlit.setWidth 32 : Word).toNat + 257) ((hdist.setWidth 32 : Word).toNat + 1)
      ((hclen.setWidth 32 : Word).toNat + 4) = countsTail (hlit.toNat + 257) (hdist.toNat + 1) (hclen.toNat + 4) := by
    rw [BitVec.toNat_setWidth_of_le (by decide), BitVec.toNat_setWidth_of_le (by decide), BitVec.toNat_setWidth_of_le (by decide)]
  rw [dynamicHeader_eq, List.append_assoc, ← htail]
  refine ((reads_getBits hlit c).bind _).trans fun c₁ h₁ => ((reads_getBits hdist c₁).bind _).trans fun c₂ h₂ => ?_
  have hlast := (reads_getBits hclen c₂).bind fun d =>
    countsTail ((hlit.setWidth 32 : Word).toNat + 257) ((hdist.setWidth 32 : Word).toNat + 1) (d.toNat + 4)
  exact hlast.mono fun c₃ h₃ => (h₁.trans h₂).trans h₃

/-- The lengths in the given places, one field each. -/
theorem reads_readCodeLens {places : List Nat} (hplaces : places.Nodup) {sent : List (BitVec 3)} (hlen : sent.length = places.length)
    (c : Engine) : (readCodeLens places).Reads (pure ()) (sent.flatMap fieldBits) (fun c' => c'.ct = c.ct ∧ ∀ j, c'.len.read j =
      if places.idxOf j < places.length then some ((sent.getD (places.idxOf j) 0).setWidth 4) else c.len.read j) c := by
  induction places generalizing sent c with
  | nil =>
    obtain rfl := List.length_eq_zero_iff.mp hlen
    exact .of_run_eq rfl rfl ⟨rfl, rfl, rfl⟩ ⟨rfl, fun _ => rfl⟩
  | cons p places ih =>
    obtain ⟨v, sent, rfl⟩ := List.exists_cons_of_length_eq_add_one hlen
    obtain ⟨hp, hplaces⟩ := List.nodup_cons.mp hplaces
    rw [List.flatMap_cons]
    refine ((reads_getBits v c).bind _).trans fun c₁ h₁ => ?_
    have hwrite : (lenWrite p ((v.setWidth 32 : Word).setWidth 4) >>= fun _ => readCodeLens places).Reads (readCodeLens places) []
        (fun c' => c' = { c₁ with len := c₁.len.write p (v.setWidth 4) }) c₁ := by
      refine .of_run_eq (c' := { c₁ with len := c₁.len.write p (v.setWidth 4) }) ?_ rfl ⟨rfl, rfl, rfl⟩ rfl
      rw [EStateM.run_bind, lenWrite_run, BitVec.setWidth_setWidth_of_le _ (by decide)]
    refine hwrite.trans fun c₂ h₂ => (ih hplaces (Nat.succ.inj hlen) c₂).mono fun c₃ ⟨hct, hread⟩ => ?_
    subst h₂
    refine ⟨hct.trans h₁.ct, fun j => ?_⟩
    rw [hread, Cells.read_write, h₁.len, List.length_cons]
    by_cases hj : p = j
    · subst hj
      simp [List.idxOf_eq_length hp]
    · simp [List.idxOf_cons_ne places hj, Ne.symm hj]

/-- The lengths of the code-length codes that a header sends (44_inflate.md R228). -/
def codeLens (sent : List (BitVec 3)) : List (BitVec 4) := (List.range 19).map fun j => (sent.getD (lenPerm.idxOf j) 0).setWidth 4

theorem length_codeLens (sent : List (BitVec 3)) : (codeLens sent).length = 19 := by simp [codeLens]

/-- Among the places of the lengths that were sent, a place stands where it stands in `PERM`; the others come later. -/
theorem idxOf_take {l : List Nat} {j n : Nat} (hn : n ≤ l.length) :
    ((l.take n).idxOf j < (l.take n).length → l.idxOf j = (l.take n).idxOf j) ∧
      (¬ (l.take n).idxOf j < (l.take n).length → n ≤ l.idxOf j) := by
  have hsplit := congrArg (List.idxOf j) (List.take_append_drop n l)
  rw [List.idxOf_append] at hsplit
  simp only [List.idxOf_lt_length_iff]
  split at hsplit
  · next hmem => exact ⟨fun _ => hsplit.symm, fun hno => absurd hmem hno⟩
  · next hmem =>
    refine ⟨fun h => absurd h hmem, fun _ => ?_⟩
    rw [← hsplit, List.length_take_of_le hn]
    exact Nat.le_add_left _ _

/-- The code-length lengths of a header with counts in the bounds. -/
theorem reads_codeLens {hlit hdist hclen : Nat} {sent : List (BitVec 3)} (hlit_le : hlit ≤ 286) (hdist_le : hdist ≤ 30)
    (hclen_le : hclen ≤ 19) (hsent : sent.length = hclen) (c : Engine) :
    (countsTail hlit hdist hclen).Reads (codesTail hlit hdist) (sent.flatMap fieldBits)
      (fun c' => c'.ct = c.ct ∧ ∀ j, j < 19 → c'.len.read j = (codeLens sent)[j]?) c := by
  obtain ⟨len, hfill, hlen⟩ := fillLens_run 0 0 19 c
  have hstart : (countsTail hlit hdist hclen).Reads (readCodeLens (lenPerm.take hclen) >>= fun _ => codesTail hlit hdist) []
      (fun c' => c' = { c with len := len }) c := by
    refine .of_run_eq (c' := { c with len := len }) ?_ rfl ⟨rfl, rfl, rfl⟩ rfl
    rw [countsTail, EStateM.run_bind, require_run, if_pos (by simp [hlit_le, hdist_le])]
    simp only [EStateM.run_bind, hfill]
  have htake : (lenPerm.take hclen).length = hclen := List.length_take_of_le hclen_le
  have hnodup : (lenPerm.take hclen).Nodup := List.Nodup.sublist (List.take_sublist _ _) (by decide)
  refine hstart.trans fun c₁ h₁ => ?_
  subst h₁
  refine (((reads_readCodeLens hnodup (hsent.trans htake.symm) _).bind _).mono fun c₂ ⟨hct, hread⟩ => ⟨hct, fun j hj => ?_⟩)
  obtain ⟨hsame, hlater⟩ := idxOf_take (l := lenPerm) (j := j) hclen_le
  have hget : (codeLens sent)[j]? = some ((sent.getD (lenPerm.idxOf j) 0).setWidth 4) := by
    rw [codeLens, List.getElem?_map, List.getElem?_range hj]
    rfl
  rw [hread, hget]
  split
  · next h => rw [hsame h]
  · next h =>
    rw [hlen, if_pos (by omega), List.getD_eq_default _ _ (hsent ▸ hlater h)]
    rfl

/-! ### The items of the two length arrays -/

/-- The repeat field of an item. -/
def LenItem.field : LenItem → List Bool
  | .length _ => []
  | .again field => fieldBits field
  | .zeros field => fieldBits field
  | .manyZeros field => fieldBits field

theorem LenItem.bits_eq (cl : List (BitVec 4)) (item : LenItem) : item.bits cl = codeBits cl item.symbol ++ item.field := by
  cases item <;> rfl

theorem LenItem.symbol_lt (item : LenItem) : item.symbol < 19 := by
  cases item with
  | length v => exact v.isLt.trans (by decide)
  | again => exact (by decide : 16 < 19)
  | zeros => exact (by decide : 17 < 19)
  | manyZeros => exact Nat.lt_succ_self 18

/-- What the loop does with the symbol of an item. -/
def lengthTail (total k num : Nat) (sym : BitVec 9) : Cmd Unit :=
  if sym.toNat < 16 then lenWrite num (sym.setWidth 4) >>= fun _ => readLengths total k (num + 1)
  else repeatCode sym.toNat num >>= fun r => require (decide (num + r.2 ≤ total)) .badRepeat >>= fun _ =>
    fillLens r.1 num r.2 >>= fun _ => readLengths total k (num + r.2)

theorem readLengths_of_lt {total num : Nat} (k : Nat) (h : num < total) :
    readLengths total (k + 1) num = decodeSymbol .ct >>= lengthTail total k num := if_pos h

theorem readLengths_of_eq (total k : Nat) : readLengths total k total = pure () := by
  cases k with
  | zero => rfl
  | succ k => exact if_neg (Nat.lt_irrefl total)

/-- The lengths `ls` stand in `LEN`, and `CT` is `t`. -/
structure Engine.HoldsLens (t : Tree) (ls : List (BitVec 4)) (c : Engine) : Prop where
  ct : c.ct = t
  len : ∀ k, k < ls.length → c.len.read k = ls[k]?

theorem Engine.HoldsLens.of_same {t : Tree} {ls : List (BitVec 4)} {c c' : Engine} (h : c.HoldsLens t ls) (hsame : c.SameCodes c') :
    c'.HoldsLens t ls := ⟨hsame.ct.trans h.ct, fun k hk => by rw [hsame.len]; exact h.len k hk⟩

/-- Lengths written behind the others. -/
theorem Engine.HoldsLens.append {t : Tree} {ls more : List (BitVec 4)} {c : Engine} {len : Cells (BitVec 4)} (h : c.HoldsLens t ls)
    (hlen : ∀ j, len.read j = if ls.length ≤ j ∧ j < ls.length + more.length then more[j - ls.length]? else c.len.read j) :
    ({ c with len := len } : Engine).HoldsLens t (ls ++ more) where
  ct := h.ct
  len k hk := by
    rw [List.length_append] at hk
    show len.read k = _
    rw [hlen]
    by_cases hin : k < ls.length
    · rw [if_neg (by omega), h.len k hin, List.getElem?_append_left hin]
    · rw [if_pos (by omega), List.getElem?_append_right (by omega)]

/-- Every item adds at least one length. -/
theorem LenItem.length_lt_of_extend {ls more : List (BitVec 4)} {item : LenItem} (hext : item.extend ls = some more) :
    ls.length < more.length := by
  cases item with
  | length v =>
    cases hext
    rw [List.length_append]
    exact Nat.lt_succ_self _
  | again f =>
    obtain ⟨v, -, rfl⟩ := Option.map_eq_some_iff.mp hext
    rw [List.length_append, List.length_replicate]
    omega
  | zeros f | manyZeros f =>
    cases hext
    rw [List.length_append, List.length_replicate]
    omega

theorem LenItem.length_add_le_of_foldlM {ls more : List (BitVec 4)} {items : List LenItem}
    (hext : items.foldlM LenItem.extend ls = some more) : ls.length + items.length ≤ more.length := by
  induction items generalizing ls with
  | nil =>
    cases hext
    exact le_rfl
  | cons item items ih =>
    obtain ⟨next, hnext, hrest⟩ := Option.bind_eq_some_iff.mp hext
    have hgrow := length_lt_of_extend hnext
    have hle := ih hrest
    rw [List.length_cons]
    omega

section
variable {cl ls more : List (BitVec 4)} {item : LenItem} {t : Tree} {c : Engine} {total k : Nat}

/-- A repeat code and its field. -/
theorem reads_repeatCode (hrepeat : ¬ item.symbol < 16) (hext : item.extend ls = some more) (h : c.HoldsLens t ls) :
    ∃ v n, more = ls ++ List.replicate n v ∧
      (repeatCode item.symbol ls.length).Reads (pure (v, n)) item.field c.SameCodes c := by
  have hwide {n : Nat} (hn : n ≤ 32) (v : BitVec n) : (v.setWidth 32).toNat = v.toNat := BitVec.toNat_setWidth_of_le hn
  cases item with
  | length v => exact absurd v.isLt hrepeat
  | again f =>
    obtain ⟨v, hv, rfl⟩ := Option.map_eq_some_iff.mp hext
    have hne : ls.length ≠ 0 := fun hzero => by
      rw [List.length_eq_zero_iff.mp hzero] at hv
      cases hv
    have hread : (lenRead (ls.length - 1)).run c = .ok v c := by
      rw [lenRead_run, h.len _ (by omega), ← List.getLast?_eq_getElem?, hv]
    refine ⟨v, 3 + f.toNat, rfl, ?_⟩
    have hstart : (repeatCode 16 ls.length).Reads (getBits 2 >>= fun r => pure (v, 3 + r.toNat)) [] c.SameCodes c := by
      refine .of_run_eq (c' := c) ?_ rfl ⟨rfl, rfl, rfl⟩ ⟨rfl, rfl⟩
      rw [repeatCode, if_pos rfl, if_neg hne, EStateM.run_bind, hread]
    rw [← hwide (by decide) f]
    exact hstart.trans fun c₁ h₁ => ((reads_getBits f c₁).bind fun r => pure (v, 3 + r.toNat)).mono fun c₂ h₂ => h₁.trans h₂
  | zeros f =>
    cases hext
    refine ⟨0, 3 + f.toNat, rfl, ?_⟩
    rw [← hwide (by decide) f]
    exact (reads_getBits f c).bind fun r => pure (0, 3 + r.toNat)
  | manyZeros f =>
    cases hext
    refine ⟨0, 11 + f.toNat, rfl, ?_⟩
    rw [← hwide (by decide) f]
    exact (reads_getBits f c).bind fun r => pure (0, 11 + r.toNat)

variable (ht : t.Canonical cl) (hkraft : kraftSum cl ≤ 2 ^ 15)
include ht hkraft

/-- The code of an item. -/
theorem reads_itemCode (hcoded : cl.getD item.symbol 0 ≠ 0) (hlt : ls.length < total) (h : c.HoldsLens t ls) :
    (readLengths total (k + 1) ls.length).Reads (lengthTail total k ls.length (BitVec.ofNat 9 item.symbol))
      (codeBits cl item.symbol) (·.HoldsLens t ls) c := by
  rw [readLengths_of_lt k hlt]
  exact ((reads_decodeSymbol (h.ct ▸ ht) hkraft hcoded).bind _).mono fun _ => h.of_same

omit ht hkraft in
theorem lengthTail_of_length {v : BitVec 4} : lengthTail total k ls.length (BitVec.ofNat 9 (LenItem.length v).symbol) =
    lenWrite ls.length v >>= fun _ => readLengths total k (ls.length + 1) := by
  have hsym : (BitVec.ofNat 9 v.toNat).toNat = v.toNat := Nat.mod_eq_of_lt (v.isLt.trans (by decide))
  have hval : (BitVec.ofNat 9 v.toNat).setWidth 4 = v := by bv_omega
  rw [LenItem.symbol, lengthTail, if_pos (by rw [hsym]; exact v.isLt), hval]

omit ht hkraft in
theorem lengthTail_of_repeat (hrepeat : ¬ item.symbol < 16) : lengthTail total k ls.length (BitVec.ofNat 9 item.symbol) =
    repeatCode item.symbol ls.length >>= fun r => require (decide (ls.length + r.2 ≤ total)) .badRepeat >>= fun _ =>
      fillLens r.1 ls.length r.2 >>= fun _ => readLengths total k (ls.length + r.2) := by
  have hsym : (BitVec.ofNat 9 item.symbol).toNat = item.symbol := Nat.mod_eq_of_lt (item.symbol_lt.trans (by decide))
  rw [lengthTail, hsym, if_neg hrepeat]

/-- One item. -/
theorem reads_item (hcoded : cl.getD item.symbol 0 ≠ 0) (hlt : ls.length < total) (hext : item.extend ls = some more)
    (hmore : more.length ≤ total) (h : c.HoldsLens t ls) :
    (readLengths total (k + 1) ls.length).Reads (readLengths total k more.length) (item.bits cl) (·.HoldsLens t more) c := by
  rw [LenItem.bits_eq]
  refine (reads_itemCode ht hkraft hcoded hlt h).trans fun c₁ h₁ => ?_
  by_cases hrepeat : item.symbol < 16
  · cases item with
    | length v =>
      cases hext
      rw [lengthTail_of_length, List.length_append]
      refine .of_run_eq (c' := { c₁ with len := c₁.len.write ls.length v }) ?_ rfl ⟨rfl, rfl, rfl⟩ (h₁.append fun j => ?_)
      · rw [EStateM.run_bind, lenWrite_run]
        rfl
      · rw [Cells.read_write]
        by_cases hj : j = ls.length
        · simp [hj]
        · rw [if_neg hj, if_neg (by rw [List.length_singleton]; omega)]
    | again => exact absurd hrepeat (by decide : ¬ 16 < 16)
    | zeros => exact absurd hrepeat (by decide : ¬ 17 < 16)
    | manyZeros => exact absurd hrepeat (by decide : ¬ 18 < 16)
  · obtain ⟨v, n, rfl, hread⟩ := reads_repeatCode hrepeat hext h₁
    rw [List.length_append, List.length_replicate] at hmore ⊢
    rw [lengthTail_of_repeat hrepeat, ← List.append_nil item.field]
    refine (hread.bind _).trans fun c₂ h₂ => ?_
    obtain ⟨len, hfill, hlen⟩ := fillLens_run v ls.length n c₂
    refine .of_run_eq (c' := { c₂ with len := len }) ?_ rfl ⟨rfl, rfl, rfl⟩ ((h₁.of_same h₂).append fun j => ?_)
    · rw [EStateM.run_bind, require_run, if_pos (decide_eq_true hmore)]
      simp only [EStateM.run_bind, hfill]
    · rw [hlen, List.length_replicate]
      refine ite_congr rfl (fun hj => ?_) fun _ => rfl
      rw [List.getElem?_replicate, if_pos (by omega)]

/-- A sequence of items; the passes left are enough for the lengths left. -/
theorem reads_items {items : List LenItem} (hcoded : ∀ item ∈ items, cl.getD item.symbol 0 ≠ 0)
    (hext : items.foldlM LenItem.extend ls = some more) (hmore : more.length ≤ total) (hpasses : total ≤ k + ls.length)
    (h : c.HoldsLens t ls) : (readLengths total k ls.length).Reads (readLengths total (k - items.length) more.length)
      (items.flatMap (LenItem.bits cl)) (·.HoldsLens t more) c := by
  induction items generalizing ls k c with
  | nil =>
    cases hext
    exact .of_run_eq rfl rfl ⟨rfl, rfl, rfl⟩ h
  | cons item items ih =>
    obtain ⟨next, hnext, hrest⟩ := Option.bind_eq_some_iff.mp hext
    have hgrow := LenItem.length_lt_of_extend hnext
    have hle := LenItem.length_add_le_of_foldlM hrest
    obtain ⟨k, rfl⟩ := Nat.exists_eq_add_of_le' (show 1 ≤ k by omega)
    have hone := reads_item (k := k) (total := total) ht hkraft (hcoded item List.mem_cons_self) (by omega) hnext (by omega) h
    rw [List.flatMap_cons, List.length_cons, Nat.add_sub_add_right]
    exact hone.trans fun c₁ h₁ => ih (fun item hitem => hcoded item (List.mem_cons_of_mem _ hitem)) hrest (by omega) h₁
end

section
variable {cl ls : List (BitVec 4)} {item : LenItem} {t : Tree} {c : Engine} {total k : Nat} {rest : List Bool}
  (ht : t.Canonical cl) (hlt : ls.length < total) (h : c.HoldsLens t ls)
include ht hlt h

/-- A repeat of nothing, and one past the last length (44_inflate.md R228). -/
theorem readLengths_run_of_badRepeat (hkraft : kraftSum cl ≤ 2 ^ 15) (hcoded : cl.getD item.symbol 0 ≠ 0)
    (hbad : ∀ more, item.extend ls = some more → total < more.length) (hbits : c.sourceBits = item.bits cl ++ rest) :
    ∃ c', (readLengths total (k + 1) ls.length).run c = .error (.raise .badRepeat) c' ∧ c'.lt = c.lt ∧ c'.dt = c.dt := by
  rw [LenItem.bits_eq, List.append_assoc] at hbits
  obtain ⟨c₁, hrun, hbits₁, hahead, h₁⟩ := (reads_itemCode (k := k) ht hkraft hcoded hlt h).full hbits
  have hrepeat : ¬ item.symbol < 16 := fun hsym => by
    cases item with
    | length v =>
      have hlen := hbad _ rfl
      rw [List.length_append, List.length_singleton] at hlen
      omega
    | again => exact absurd hsym (by decide : ¬ 16 < 16)
    | zeros => exact absurd hsym (by decide : ¬ 17 < 16)
    | manyZeros => exact absurd hsym (by decide : ¬ 18 < 16)
  rw [lengthTail_of_repeat hrepeat] at hrun
  cases hext : item.extend ls with
  | some more =>
    obtain ⟨v, n, hmore, hread⟩ := reads_repeatCode hrepeat hext h₁
    obtain ⟨c₂, hrun₂, -, hahead₂, -⟩ := hread.full hbits₁
    have hlen := hbad more hext
    rw [hmore, List.length_append, List.length_replicate] at hlen
    refine ⟨c₂, ?_, hahead₂.lt.trans hahead.lt, hahead₂.dt.trans hahead.dt⟩
    rw [hrun, EStateM.run_bind, hrun₂]
    show EStateM.run (require (decide (ls.length + n ≤ total)) .badRepeat >>= _) c₂ = _
    rw [EStateM.run_bind, require_run, if_neg (by simpa using hlen)]
  | none =>
    refine ⟨c₁, ?_, hahead.lt, hahead.dt⟩
    cases item with
    | again f =>
      obtain rfl := List.getLast?_eq_none_iff.mp (Option.map_eq_none_iff.mp hext)
      exact hrun
    | length | zeros | manyZeros => cases hext

/-- Bits that begin no code (42_huffman.md R172). -/
theorem readLengths_run_of_noCode (hlong : 15 ≤ c.sourceBits.length)
    (hno : ∀ j, j < cl.length → cl.getD j 0 ≠ 0 → ¬ codeBits cl j <+: c.sourceBits) :
    ∃ c', (readLengths total (k + 1) ls.length).run c = .error (.raise .invalidCode) c' ∧ c'.lt = c.lt ∧ c'.dt = c.dt ∧
      c'.sourceBits = c.sourceBits.drop 15 := by
  have hcanonical : c.ct.Canonical cl := by
    rw [h.ct]
    exact ht
  obtain ⟨c₁, hrun, hdrop, htook⟩ := (decodeSymbol_run_of_noCode (sl := .ct) (ls := cl) hcanonical hno).1 hlong
  rw [readLengths_of_lt k hlt, EStateM.run_bind, hrun]
  exact ⟨c₁, rfl, (congrArg Engine.lt htook.frame :), (congrArg Engine.dt htook.frame :), hdrop⟩
end

/-! ### The header -/

/-- The trees built from the lengths in `LEN`. -/
theorem treesTail_run {hlit hdist : Nat} {ls : List (BitVec 4)} {c : Engine} (hlen : ls.length = hlit + hdist)
    (hls : ∀ k, k < ls.length → c.len.read k = ls[k]?) :
    (treesTail hlit hdist).run c = if overSubscribed (ls.take hlit) then .error (.raise .treeOversub) { c with lt := failedTree c.lt }
      else (buildTree .dt (ls.drop hlit)).run { c with lt := builtTree c.lt (ls.take hlit) } := by
  have hll : (readLens 0 hlit).run c = .ok (ls.take hlit) c :=
    readLens_run_of_written (List.length_take_of_le (by omega)) fun k hk => by
      rw [Nat.zero_add, hls k (by omega), List.getElem?_take_of_lt hk]
  have hdl : (readLens hlit hdist).run (c.setTree .lt (builtTree (c.tree .lt) (ls.take hlit))) =
      .ok (ls.drop hlit) (c.setTree .lt (builtTree (c.tree .lt) (ls.take hlit))) :=
    readLens_run_of_written (by rw [List.length_drop]; omega) fun k hk => by
      rw [List.getElem?_drop]
      exact hls _ (by omega)
  have hbuild := buildTree_run .lt (ls.take hlit) c
  rw [treesTail, EStateM.run_bind, hll]
  by_cases hover : overSubscribed (ls.take hlit) = true
  · rw [if_pos hover] at hbuild ⊢
    simp only [EStateM.run_bind, hbuild]
    rfl
  · rw [if_neg hover] at hbuild ⊢
    simp only [EStateM.run_bind, hbuild, hdl]
    rfl

/-- The tree of the code-length codes. -/
theorem codesTail_run {hlit hdist : Nat} {cl : List (BitVec 4)} {c : Engine} (hlen : cl.length = 19)
    (hcl : ∀ j, j < 19 → c.len.read j = cl[j]?) :
    (codesTail hlit hdist).run c = if overSubscribed cl then .error (.raise .treeOversub) { c with ct := failedTree c.ct }
      else (readLengths (hlit + hdist) (hlit + hdist) 0 >>= fun _ => treesTail hlit hdist).run { c with ct := builtTree c.ct cl } := by
  have hread : (readLens 0 19).run c = .ok cl c := readLens_run_of_written hlen fun k hk => by
    rw [Nat.zero_add]
    exact hcl k hk
  have hbuild := buildTree_run .ct cl c
  rw [codesTail, EStateM.run_bind, hread]
  by_cases hover : overSubscribed cl = true
  · rw [if_pos hover] at hbuild ⊢
    simp only [EStateM.run_bind, hbuild]
    rfl
  · rw [if_neg hover] at hbuild ⊢
    simp only [EStateM.run_bind, hbuild]
    rfl

/-- The bits of a header up to and with the given items. -/
def headerFront (hlit hdist : BitVec 5) (hclen : BitVec 4) (sent : List (BitVec 3)) (items : List LenItem) : List Bool :=
  fieldBits hlit ++ fieldBits hdist ++ fieldBits hclen ++ sent.flatMap fieldBits ++ items.flatMap (LenItem.bits (codeLens sent))

section
variable {hlit hdist : BitVec 5} {hclen : BitVec 4} {sent : List (BitVec 3)} {items : List LenItem} {ls : List (BitVec 4)} {c : Engine}
  (hhlit : hlit.toNat + 257 ≤ 286) (hhdist : hdist.toNat + 1 ≤ 30) (hsent : sent.length = hclen.toNat + 4)
include hhlit hhdist hsent

/-- The counts and the code-length lengths of a header. -/
theorem reads_codes : dynamicHeader.Reads (codesTail (hlit.toNat + 257) (hdist.toNat + 1))
    (fieldBits hlit ++ fieldBits hdist ++ fieldBits hclen ++ sent.flatMap fieldBits)
    (fun c' => c'.ct = c.ct ∧ ∀ j, j < 19 → c'.len.read j = (codeLens sent)[j]?) c :=
  (reads_counts hlit hdist hclen c).trans fun c₁ h₁ =>
    (reads_codeLens hhlit hhdist (by have := hclen.isLt; omega) hsent c₁).mono fun _ ⟨hct, hread⟩ => ⟨hct.trans h₁.ct, hread⟩

/-- A header up to and with the given items. -/
theorem reads_header (hkraft : kraftSum (codeLens sent) ≤ 2 ^ 15) (hcoded : ∀ item ∈ items, (codeLens sent).getD item.symbol 0 ≠ 0)
    (hext : LenItem.expand items = some ls) (hle : ls.length ≤ hlit.toNat + 257 + (hdist.toNat + 1)) :
    dynamicHeader.Reads (readLengths (hlit.toNat + 257 + (hdist.toNat + 1)) (hlit.toNat + 257 + (hdist.toNat + 1) - items.length) ls.length >>=
        fun _ => treesTail (hlit.toNat + 257) (hdist.toNat + 1))
      (headerFront hlit hdist hclen sent items)
      (·.HoldsLens (builtTree c.ct (codeLens sent)) ls) c := by
  refine (reads_codes hhlit hhdist hsent).trans fun c₁ ⟨hct, hread⟩ => ?_
  have hbuild := codesTail_run (hlit := hlit.toNat + 257) (hdist := hdist.toNat + 1) (length_codeLens sent) hread
  rw [if_neg ((overSubscribed_iff _).not.mpr hkraft.not_gt), hct] at hbuild
  have hcanonical : (builtTree c.ct (codeLens sent)).Canonical (codeLens sent) :=
    canonical_builtTree _ (by rw [length_codeLens]; decide)
  have hstart : (codesTail (hlit.toNat + 257) (hdist.toNat + 1)).Reads _ [] (·.HoldsLens (builtTree c.ct (codeLens sent)) []) c₁ :=
    .of_run_eq hbuild rfl ⟨rfl, rfl, rfl⟩ ⟨rfl, nofun⟩
  exact hstart.trans fun c₂ h₂ => (reads_items hcanonical hkraft hcoded hext hle (Nat.le_add_right _ _) h₂).bind_left _

section
variable (hkraft : kraftSum (codeLens sent) ≤ 2 ^ 15) (hcoded : ∀ item ∈ items, (codeLens sent).getD item.symbol 0 ≠ 0)
  (hext : LenItem.expand items = some ls)
include hkraft hcoded hext

/-- A header with all its items: the trees are left to build. -/
theorem dynamicHeader_run_of_all (hlen : ls.length = hlit.toNat + 257 + (hdist.toNat + 1))
    (hfront : headerFront hlit hdist hclen sent items <+: c.sourceBits) :
    ∃ c', dynamicHeader.run c = (treesTail (hlit.toNat + 257) (hdist.toNat + 1)).run c' ∧
      c'.sourceBits = c.sourceBits.drop (headerFront hlit hdist hclen sent items).length ∧ c.Ahead c' ∧
      c'.HoldsLens (builtTree c.ct (codeLens sent)) ls := by
  obtain ⟨rest, hrest⟩ := hfront
  obtain ⟨c₁, hrun, hbits, hahead, hholds⟩ := (reads_header hhlit hhdist hsent hkraft hcoded hext hlen.le).full hrest.symm
  rw [hlen, readLengths_of_eq] at hrun
  exact ⟨c₁, hrun, by rw [hbits, ← hrest, List.drop_left], hahead, hholds⟩

/-- A header with lengths left: the next item is to be read. -/
theorem dynamicHeader_run_of_some (hlt : ls.length < hlit.toNat + 257 + (hdist.toNat + 1)) {rest : List Bool}
    (hbits : c.sourceBits = headerFront hlit hdist hclen sent items ++ rest) :
    ∃ c' k, dynamicHeader.run c = (readLengths (hlit.toNat + 257 + (hdist.toNat + 1)) (k + 1) ls.length >>=
        fun _ => treesTail (hlit.toNat + 257) (hdist.toNat + 1)).run c' ∧
      c'.sourceBits = rest ∧ c.Ahead c' ∧ c'.HoldsLens (builtTree c.ct (codeLens sent)) ls := by
  obtain ⟨c₁, hrun, hrest⟩ := (reads_header hhlit hhdist hsent hkraft hcoded hext hlt.le).full hbits
  have hle : 0 + items.length ≤ ls.length := LenItem.length_add_le_of_foldlM hext
  obtain ⟨k, hk⟩ := Nat.exists_eq_add_of_le' (show 1 ≤ hlit.toNat + 257 + (hdist.toNat + 1) - items.length by omega)
  rw [hk] at hrun
  exact ⟨c₁, k, hrun, hrest⟩

omit hhlit hhdist hsent hkraft hcoded hext in
theorem canonical_codes (old : Tree) (sent : List (BitVec 3)) : (builtTree old (codeLens sent)).Canonical (codeLens sent) :=
  canonical_builtTree _ (by rw [length_codeLens]; decide)

/-- A repeat of nothing, or one past the last length. -/
theorem dynamicHeader_run_of_badRepeat {item : LenItem} (hitem : (codeLens sent).getD item.symbol 0 ≠ 0)
    (hlt : ls.length < hlit.toNat + 257 + (hdist.toNat + 1))
    (hbad : ∀ more, item.extend ls = some more → hlit.toNat + 257 + (hdist.toNat + 1) < more.length)
    (hfront : headerFront hlit hdist hclen sent items ++ item.bits (codeLens sent) <+: c.sourceBits) :
    ∃ c', dynamicHeader.run c = .error (.raise .badRepeat) c' ∧ c'.lt = c.lt ∧ c'.dt = c.dt := by
  obtain ⟨rest, hrest⟩ := hfront
  rw [List.append_assoc] at hrest
  obtain ⟨c₁, k, hrun, hbits, hahead, hholds⟩ := dynamicHeader_run_of_some hhlit hhdist hsent hkraft hcoded hext hlt hrest.symm
  obtain ⟨c₂, hrun₂, hlt₂, hdt₂⟩ :=
    readLengths_run_of_badRepeat (k := k) (canonical_codes _ sent) hlt hholds hkraft hitem hbad hbits
  rw [EStateM.run_bind, hrun₂] at hrun
  exact ⟨c₂, hrun, hlt₂.trans hahead.lt, hdt₂.trans hahead.dt⟩

/-- Bits behind the items that begin no code. -/
theorem dynamicHeader_run_of_noCode (hlt : ls.length < hlit.toNat + 257 + (hdist.toNat + 1))
    (hfront : headerFront hlit hdist hclen sent items <+: c.sourceBits)
    (hlong : 15 ≤ (c.sourceBits.drop (headerFront hlit hdist hclen sent items).length).length)
    (hno : ∀ j, j < 19 → (codeLens sent).getD j 0 ≠ 0 →
      ¬ codeBits (codeLens sent) j <+: c.sourceBits.drop (headerFront hlit hdist hclen sent items).length) :
    ∃ c', dynamicHeader.run c = .error (.raise .invalidCode) c' ∧ c'.lt = c.lt ∧ c'.dt = c.dt ∧
      c'.sourceBits = c.sourceBits.drop ((headerFront hlit hdist hclen sent items).length + 15) := by
  obtain ⟨rest, hrest⟩ := hfront
  obtain ⟨c₁, k, hrun, hbits, hahead, hholds⟩ := dynamicHeader_run_of_some hhlit hhdist hsent hkraft hcoded hext hlt hrest.symm
  have hdrop : c.sourceBits.drop (headerFront hlit hdist hclen sent items).length = c₁.sourceBits := by
    rw [hbits, ← hrest, List.drop_left]
  rw [hdrop] at hlong hno
  obtain ⟨c₂, hrun₂, hlt₂, hdt₂, hbits₂⟩ := readLengths_run_of_noCode (k := k) (canonical_codes _ sent) hlt hholds hlong
    (by rw [length_codeLens]; exact hno)
  rw [EStateM.run_bind, hrun₂] at hrun
  exact ⟨c₂, hrun, hlt₂.trans hahead.lt, hdt₂.trans hahead.dt, by rw [hbits₂, ← hdrop, List.drop_drop]⟩
end
end

/-- Settles O44: the header is read piece by piece, each piece by the bits that spell it, and the trees are built from what `LEN` holds. -/
theorem dynamicHeaderBuildsTheTreesFromLen : Obligations.DynamicHeaderBuildsTheTreesFromLen := by
  refine ⟨fun c c' => dynamicHeader_eq_ok, fun c hlit hdist hclen hfront hbad => ?_,
    fun c hlit hdist hclen sent items ls hhlit hhdist hsent hkraft hcoded hext =>
      ⟨fun hlen hfront hll hdl => ?_, fun item hitem hlt hbad hfront => ?_, fun hlt hfront hlong hno => ?_, fun hlen hfront => ?_,
        fun hle hshort hne hend => ?_⟩,
    fun c hlit hdist hclen sent hhlit hhdist hsent hkraft hfront => ?_⟩
  · obtain ⟨rest, hrest⟩ := hfront
    obtain ⟨c₁, hrun, hbits, -, hsame⟩ := (reads_counts hlit hdist hclen c).full hrest.symm
    have hlen : (fieldBits hlit ++ fieldBits hdist ++ fieldBits hclen).length = 14 := by simp [length_fieldBits]
    refine ⟨c₁, ?_, by rw [hbits, ← hrest, ← hlen, List.drop_left], hsame.len⟩
    have hno : ¬ (decide (hlit.toNat + 257 ≤ 286) && decide (hdist.toNat + 1 ≤ 30)) = true := by
      simp only [Bool.and_eq_true, decide_eq_true_eq]
      omega
    rw [hrun, countsTail, EStateM.run_bind, require_run, if_neg hno]
  · obtain ⟨c₁, hrun, hbits, hahead, hholds⟩ := dynamicHeader_run_of_all hhlit hhdist hsent hkraft hcoded hext hlen hfront
    rw [treesTail_run hlen hholds.len, if_neg ((overSubscribed_iff _).not.mpr hll.not_gt), buildTree_run,
      if_neg ((overSubscribed_iff _).not.mpr hdl.not_gt)] at hrun
    exact ⟨_, hrun, hholds.len, congrArg (builtTree · _) hahead.lt, congrArg (builtTree · _) hahead.dt, hholds.ct, hbits⟩
  · exact dynamicHeader_run_of_badRepeat hhlit hhdist hsent hkraft hcoded hext hitem hlt (fun more hmore => by rwa [hmore] at hbad) hfront
  · exact dynamicHeader_run_of_noCode hhlit hhdist hsent hkraft hcoded hext hlt hfront hlong hno
  · obtain ⟨c₁, hrun, -, hahead, hholds⟩ := dynamicHeader_run_of_all hhlit hhdist hsent hkraft hcoded hext hlen hfront
    rw [treesTail_run hlen hholds.len] at hrun
    refine ⟨fun hover => ?_, fun hvalid hover => ?_⟩
    · rw [if_pos ((overSubscribed_iff _).mpr hover)] at hrun
      exact ⟨_, hrun, rfl, hahead.dt⟩
    · rw [if_neg ((overSubscribed_iff _).not.mpr hvalid.not_gt), buildTree_run, if_pos ((overSubscribed_iff _).mpr hover)] at hrun
      exact ⟨_, hrun, congrArg (builtTree · _) hahead.lt, rfl⟩
  · obtain ⟨c₁, hrun, hlt, hdt⟩ := (reads_header hhlit hhdist hsent hkraft hcoded hext hle).short hshort hne hend
    exact ⟨c₁, hrun, hlt, hdt⟩
  · obtain ⟨rest, hrest⟩ := hfront
    obtain ⟨c₁, hrun, -, hahead, -, hread⟩ := (reads_codes (c := c) hhlit hhdist hsent).full hrest.symm
    have hover : overSubscribed (codeLens sent) = true := (overSubscribed_iff _).mpr hkraft
    rw [codesTail_run (length_codeLens sent) hread, if_pos hover] at hrun
    exact ⟨_, hrun, rfl, hahead.lt, hahead.dt⟩

end Sys2Proof.Machine
end
